-- ==== Sys2Proof/Word.lean ====
section
/-! DEFINITION. The word types of the block (00_scope.md R11, R13): every value is unsigned. -/

namespace Sys2Proof

/-- A byte, 0..255 (R9 `BYTE_WIDTH`). -/
abbrev Byte := BitVec 8

/-- The width of the CRC register, of a file identifier and of a file offset (R9 `CRC_WIDTH`, R62). -/
abbrev Half := BitVec 16

/-- The command word `CW[39:0]` (30_encoding.md R61). -/
abbrev CmdWord := BitVec 40

end Sys2Proof
end

