-- ==== Sys2Proof/Config.lean ====
section
/-! DEFINITION. The constants the source fixes and the parameters it leaves open (00_scope.md R9, R10). -/

namespace Sys2Proof

/-- `CRC_SEED` (R9). -/
def Config.crcSeed : Half := 0x6363

/-- `PCB_DEFAULT` (R9). -/
def Config.pcbDefault : Byte := 0x02

/-- `FID_SYSTEM` (R9; 20_memory.md R43). -/
def Config.fidSystem : Half := 0xE101

/-- `FID_CC` (R9; R43). -/
def Config.fidCc : Half := 0xE103

/-- `FID_NDEF` (R9; R43). -/
def Config.fidNdef : Half := 0x0001

/-- `T4_AID`, the seven bytes of the NFC Type 4 Tag application (R9). -/
def Config.t4Aid : List Byte := [0xD2, 0x76, 0x00, 0x00, 0x85, 0x01, 0x01]

/-- `MAX_CMD_FRAME`, the longest command frame in bytes (R9, derived there). -/
def Config.maxCmdFrame : Nat := 16

/-- `MAX_RESP_LEN`, the longest response in bytes (R9, derived there: 255 + 5). -/
def Config.maxRespLen : Nat := 260

/-- `CHECK_CRC_MODE` (R9; 42_exchange.md R118). -/
inductive CheckCrcMode
  | unimplemented
  | verify
  deriving DecidableEq, Repr

/-- `POST_FINALIZE_UPDATE` (R9; 40_crc16.md R94). -/
inductive PostFinalizeUpdate
  | fault
  | fold
  deriving DecidableEq, Repr

/-- `DESELECT_READ` (R9; 42_exchange.md R127). -/
inductive DeselectRead
  | none
  | zeroLength
  deriving DecidableEq, Repr

/-- `LONG_RESPONSE` (R9; 42_exchange.md R117). -/
inductive LongResponse
  | fault
  | acceptPrefix
  deriving DecidableEq, Repr

/-- The parameters of one model instance (R9). The transport types its address as a byte (R46), and
92_eei_decisions.md D8 admits `0xAC`, so `tagAddr` has eight bits. -/
structure Params where
  tagAddr : Byte
  checkCrcMode : CheckCrcMode
  postFinalizeUpdate : PostFinalizeUpdate
  deselectRead : DeselectRead
  longResponse : LongResponse
  deriving DecidableEq, Repr

/-- Every parameter at the default of R9. -/
def Params.default : Params where
  tagAddr := 0x56
  checkCrcMode := .unimplemented
  postFinalizeUpdate := .fault
  deselectRead := .none
  longResponse := .fault

end Sys2Proof
end

