-- ==== Sys2Proof/Machine/Recurrence.lean ====
section
/-! DEFINITION. The CRC recurrence and the pure functions over byte sequences built from it (40_crc16.md). -/

namespace Sys2Proof.Machine

/-- `hi(v) = v[15:8]` (00_scope.md R14). -/
def hi (v : Half) : Byte := v.extractLsb' 8 8

/-- `lo(v) = v[7:0]` (R14). -/
def lo (v : Half) : Byte := v.extractLsb' 0 8

/-- The 16-bit value of a big-endian pair, `h * 256 + l` (30_encoding.md R81). -/
def join (h l : Byte) : Half := h ++ l

/-- `step(r, b)` (R89), in 16 bits, which R90 allows. -/
def crcStep (r : Half) (b : Byte) : Half :=
  let x := b.setWidth 16 ^^^ (r &&& 0x00FF)
  let x := x ^^^ ((x <<< 4) &&& 0x00FF)
  let r' := (r >>> 8) ^^^ (x <<< 8) ^^^ (x <<< 3) ^^^ (x >>> 4)
  r' &&& 0xFFFF

/-- The third line of R89 before its mask, on unbounded naturals as R12 reads `shl`. -/
def crcStepNatUnmasked (r b : Nat) : Nat :=
  let x := b ^^^ (r &&& 0x00FF)
  let x := x ^^^ ((x <<< 4) &&& 0x00FF)
  (r >>> 8) ^^^ (x <<< 8) ^^^ (x <<< 3) ^^^ (x >>> 4)

/-- `step(r, b)` (R89) on unbounded naturals. -/
def crcStepNat (r b : Nat) : Nat := crcStepNatUnmasked r b &&& 0xFFFF

/-- `n` turns of the loop of R92. -/
def shiftOut : Nat → Half → Half
  | 0, r => r
  | n + 1, r => shiftOut n (if r.getLsbD 0 then (r >>> 1) ^^^ 0x8408 else r >>> 1)

/-- The bitwise form of R92. -/
def crcStepBitwise (r : Half) (b : Byte) : Half := shiftOut 8 (r ^^^ b.setWidth 16)

/-- The register after folding `s` in index order from `r` (R51, R96). -/
def crcFold (r : Half) (s : List Byte) : Half := s.foldl crcStep r

/-- `CRC16(s)` (R96). -/
def crc16 (s : List Byte) : Half := crcFold Config.crcSeed s

/-- `crcbytes(s)`, low byte first (R16). -/
def crcBytes (s : List Byte) : List Byte := [lo (crc16 s), hi (crc16 s)]

/-- `close(s)` (41_frame_assembly.md R103). -/
def close (s : List Byte) : List Byte := s ++ crcBytes s

/-- `CrcOk(d)` (42_exchange.md R119). -/
def crcOk (d : List Byte) : Bool :=
  decide (2 ≤ d.length) && decide (d.drop (d.length - 2) = crcBytes (d.take (d.length - 2)))

end Sys2Proof.Machine
end

