-- ==== Sys2Proof/Syntax.lean ====
section
/-! DEFINITION. The instructions: one constructor per row of spec/opcode_table.json (nine operations, three
reserved rows, five wire frames), and what a caller or a monitor presents (`Packet`). -/

namespace Sys2Proof

/-- One constructor per row of spec/opcode_table.json. -/
inductive Instr
  /-- `CRC_START` (40_crc16.md R93). -/
  | crcStart
  /-- `CRC_UPDATE b` (R94). -/
  | crcUpdate (b : Byte)
  /-- `CRC_FINALIZE` (R95). -/
  | crcFinalize
  /-- `CRC_COMPUTE buf` (R97): a sequence of any length, including 0 (30_encoding.md R70). -/
  | crcCompute (buf : List Byte)
  /-- `KILL_RF_SELECT_I2C` (42_exchange.md R123). -/
  | killRfSelectI2c
  /-- `SELECT_NFC_T4_APP pcb, chk` (R124). -/
  | selectNfcT4App (pcb : Byte) (chk : Bool)
  /-- `SELECT_FILE fid, pcb, chk` (R125). -/
  | selectFile (fileId : Half) (pcb : Byte) (chk : Bool)
  /-- `READ_BINARY off, len, pcb, chk` (R126). -/
  | readBinary (offset : Half) (length : Byte) (pcb : Byte) (chk : Bool)
  /-- `DESELECT` (R127). -/
  | deselect
  /-- `RESERVED_OP`, the table's row for `op = 0x9` (30_encoding.md R68); `upper` is `CW[39:4]`. -/
  | reservedOp9 (upper : BitVec 36)
  /-- `RESERVED_OP`, the table's row for `op = 0xA..0xB`; `low` is `CW[0]`. -/
  | reservedOpAB (upper : BitVec 36) (low : BitVec 1)
  /-- `RESERVED_OP`, the table's row for `op = 0xC..0xF`; `low` is `CW[1:0]`. -/
  | reservedOpCF (upper : BitVec 36) (low : BitVec 2)
  /-- Wire frame `FK` (R72). -/
  | frameKillRfSelectI2c
  /-- Wire frame `FD` (R73). -/
  | frameDeselect
  /-- Wire frame `FA` (R75); `c0`, `c1` are its CRC field. -/
  | frameSelectNfcT4App (pcb c0 c1 : Byte)
  /-- Wire frame `FS` (R76). -/
  | frameSelectFile (pcb : Byte) (fileId : Half) (c0 c1 : Byte)
  /-- Wire frame `FR` (R77). -/
  | frameReadBinary (pcb : Byte) (offset : Half) (length c0 c1 : Byte)
  deriving DecidableEq, Repr

/-- What is presented: a command word with its optional `buf` operand, by a caller (R61, R70), or a byte
sequence captured on the transport, by the monitor of R81. The elements of `buf` are naturals, so this is
R70's "model that takes elements of a wider type" and `OPERAND_RANGE` can be reached. -/
inductive Packet
  | command (word : CmdWord) (buf : Option (List Nat))
  | frame (bytes : List Byte)
  deriving DecidableEq, Repr

/-- The reasons for which the block refuses a command word (60_exceptions.md R135), with what R139 says each
records. -/
inductive RefusalReason
  | busy
  | reservedOp (word : CmdWord)
  | reservedField (word : CmdWord)
  | operandShape
  | operandRange
  deriving DecidableEq, Repr

/-- Why a packet is no instruction: the block refuses the word (R69), or the byte sequence has none of the
five formats of R80. -/
inductive DecodeError
  | refused (reason : RefusalReason)
  | notABlockFrame
  deriving DecidableEq, Repr

/-- The answers of `classify` (R81). -/
inductive FrameClass
  | killRfSelectI2c
  | deselect
  | selectNfcT4App (pcb : Byte)
  | selectFile (pcb : Byte) (fileId : Half)
  | readBinary (pcb : Byte) (offset : Half) (length : Byte)
  | notABlockFrame
  deriving DecidableEq, Repr

end Sys2Proof
end

