-- ==== Sys2Proof/Machine/Frames.lean ====
section
/-! DEFINITION. The frame assembler (41_frame_assembly.md R105 to R109), the frames with a CRC field given as
an operand (30_encoding.md R72 to R77), and the monitor's `classify` (R81). -/

namespace Sys2Proof.Machine

/-- Bytes 0..13 of format `FA` (R75): PCB, CLA, INS, P1, P2, Lc, `T4_AID`, Le. -/
def bodySelectApp (pcb : Byte) : List Byte :=
  [pcb, 0x00, 0xA4, 0x04, 0x00, 0x07] ++ Config.t4Aid ++ [0x00]

/-- Bytes 0..7 of format `FS` (R76): the file identifier goes high byte first. -/
def bodySelectFile (fileId : Half) (pcb : Byte) : List Byte :=
  [pcb, 0x00, 0xA4, 0x00, 0x0C, 0x02, hi fileId, lo fileId]

/-- Bytes 0..5 of format `FR` (R77): the offset goes high byte first. -/
def bodyReadBinary (offset : Half) (length pcb : Byte) : List Byte :=
  [pcb, 0x00, 0xB0, hi offset, lo offset, length]

/-- `frame_KILL()` (R105). -/
def frameKill : List Byte := [0x52]

/-- `frame_SELECT_APP(pcb)` (R106). -/
def frameSelectApp (pcb : Byte) : List Byte := close (bodySelectApp pcb)

/-- `frame_SELECT_FILE(fileId, pcb)` (R107). -/
def frameSelectFile (fileId : Half) (pcb : Byte) : List Byte := close (bodySelectFile fileId pcb)

/-- `frame_READ_BINARY(offset, length, pcb)` (R108). -/
def frameReadBinary (offset : Half) (length pcb : Byte) : List Byte := close (bodyReadBinary offset length pcb)

/-- `frame_DESELECT()` (R109). -/
def frameDeselect : List Byte := close [0xC2]

/-- The bytes of the wire row `FK` (R72). -/
def wireKill : List Byte := [0x52]

/-- The bytes of the wire row `FD` (R73). -/
def wireDeselect : List Byte := [0xC2, 0xE0, 0xB4]

/-- The bytes of the wire row `FA` (R75) with CRC field `c0 c1`. -/
def wireSelectApp (pcb c0 c1 : Byte) : List Byte := bodySelectApp pcb ++ [c0, c1]

/-- The bytes of the wire row `FS` (R76) with CRC field `c0 c1`. -/
def wireSelectFile (pcb : Byte) (fileId : Half) (c0 c1 : Byte) : List Byte := bodySelectFile fileId pcb ++ [c0, c1]

/-- The bytes of the wire row `FR` (R77) with CRC field `c0 c1`. -/
def wireReadBinary (pcb : Byte) (offset : Half) (length c0 c1 : Byte) : List Byte :=
  bodyReadBinary offset length pcb ++ [c0, c1]

/-- `s[i..j)` (00_scope.md R13). Where `j` is past the end, the elements there are. DESIGN CHOICE (log entry 19): the
spec gives no value there. -/
def slice (s : List Byte) (i j : Nat) : List Byte := (s.take j).drop i

/-- `s[i]` (R13). Every rule reads it in range. DESIGN CHOICE (log entry 19): out of range it is 0, where the spec gives
no value. -/
def byteAt (s : List Byte) (i : Nat) : Byte := s.getD i 0

/-- `classify(s)` (R81), line by line. -/
def classify (s : List Byte) : FrameClass :=
  if s = [0x52] then .killRfSelectI2c
  else if s.length = 3 ∧ byteAt s 0 = 0xC2 ∧ slice s 1 3 = crcBytes (slice s 0 1) then .deselect
  else if s.length = 16 ∧ slice s 1 14 = [0x00, 0xA4, 0x04, 0x00, 0x07, 0xD2, 0x76, 0x00, 0x00, 0x85, 0x01, 0x01, 0x00]
      ∧ slice s 14 16 = crcBytes (slice s 0 14) then .selectNfcT4App (byteAt s 0)
  else if s.length = 10 ∧ slice s 1 6 = [0x00, 0xA4, 0x00, 0x0C, 0x02]
      ∧ slice s 8 10 = crcBytes (slice s 0 8) then .selectFile (byteAt s 0) (join (byteAt s 6) (byteAt s 7))
  else if s.length = 8 ∧ slice s 1 3 = [0x00, 0xB0]
      ∧ slice s 6 8 = crcBytes (slice s 0 6) then
    .readBinary (byteAt s 0) (join (byteAt s 3) (byteAt s 4)) (byteAt s 5)
  else .notABlockFrame

end Sys2Proof.Machine
end

