-- ==== Sys2Proof/Machine/State.lean ====
section
/-! DEFINITION. The state of the block (10_state.md R20), the instance's parameters (R10), and the model's own
record of what the block exchanges with its caller, its transport and a monitor. -/

namespace Sys2Proof.Machine

/-- `crc_phase` (R23). -/
inductive CrcPhase
  | unseeded
  | accumulating
  | finalized
  deriving DecidableEq, Repr

/-- `xphase` (R30). -/
inductive XPhase
  | idle
  | waitWrite
  | waitRead
  deriving DecidableEq, Repr

/-- The mnemonics `xlatch.op` ranges over: the five protocol operations (R31, R38). -/
inductive ProtocolOp
  | killRfSelectI2c
  | selectNfcT4App
  | selectFile
  | readBinary
  | deselect
  deriving DecidableEq, Repr

/-- The contents of `xlatch` while an exchange is in progress (R31); `n = none` is the spec's `NONE`. -/
structure Latch where
  op : ProtocolOp
  n : Option Nat
  chk : Bool
  deriving DecidableEq, Repr

/-- The transport call that failed (60_exceptions.md R134). -/
inductive TransportCall
  | write
  | read
  deriving DecidableEq, Repr

/-- The kinds of ProtocolError (R137). -/
inductive ProtocolErrorKind
  | shortResponse
  | longResponse
  | crcCheckUnimplemented
  | crcMismatch
  deriving DecidableEq, Repr

/-- The kinds of UsageFault (R136). -/
inductive UsageFaultKind
  | crcNotSeeded
  | updateAfterFinalize
  deriving DecidableEq, Repr

/-- The result values (10_state.md R32): `()`, the register, `(lowByte, highByte)`, a byte sequence. -/
inductive Value
  | unit
  | register (v : Half)
  | pair (lowByte highByte : Byte)
  | bytes (s : List Byte)
  deriving DecidableEq, Repr

/-- The outcome of an issued operation, as it is delivered to the caller (60_exceptions.md R133). -/
inductive Report
  | result (v : Value)
  | transportError (call : TransportCall) (st : Int)
  | protocolError (kind : ProtocolErrorKind) (data : List Byte)
  | usageFault (kind : UsageFaultKind)
  | refused (reason : RefusalReason)
  deriving DecidableEq, Repr

/-- A transport call or its answer, as the transport log holds it (20_memory.md R46, R47). `reached` is how many
bytes of the frame the tag received when the write failed (R54): the block cannot see it. -/
inductive TransportEvent
  | write (addr : Byte) (frame : List Byte)
  | wrote (st : Int) (reached : Nat)
  | read (addr : Byte) (n : Nat)
  | got (st : Int) (data : List Byte)
  deriving DecidableEq, Repr

/-- What the outside does to the block, one event at a time: a packet is presented (a command word by a caller, a
captured byte sequence by the monitor), a transport call returns (42_exchange.md R114), or the block is reset
(70_reset_and_hazards.md R151). -/
inductive Input
  | packet (p : Packet)
  | wrote (st : Int) (reached : Nat)
  | got (st : Int) (data : List Byte)
  | reset
  deriving DecidableEq, Repr

/-- The machine's state. `fcs`, `crcPhase`, `xphase` and `xlatch` are all the state the block has (R20). `cfg` is the
instance's configuration, which no step changes (R10). The last four fields are the model's own: the events still to
come, oldest first, and the records, oldest first, of the transport's calls and answers, of the outcomes delivered
and of the monitor's classifications. -/
structure State where
  cfg : Params
  fcs : Option Half
  crcPhase : CrcPhase
  xphase : XPhase
  xlatch : Option Latch
  inputs : List Input
  transport : List TransportEvent
  reports : List Report
  seen : List FrameClass
  deriving DecidableEq, Repr

/-- Why the machine stops where the spec gives no behaviour. -/
inductive Fault
  /-- Raised by `step` when a transport answer arrives while no such call is outstanding: a call returns once and
  only after it is made (R114), so the spec has no such event. Safe: the machine stops. -/
  | answerWithoutCall
  /-- Raised by `step` when an answer arrives and the latch does not hold what R31 says it holds while `xphase` is
  not `IDLE`. No reachable state is of this kind. Safe: the machine stops. -/
  | latchCorrupt
  deriving DecidableEq, Repr

/-- Why the machine takes no step. -/
inductive Refusal
  /-- The instruction has no meaning in the model yet. Raised by `exec` alone, and by no arm now. Safe. -/
  | notModelled (mnemonic : String)
  /-- Raised by `step` when reset is asked for while `xphase` is not `IDLE`: reset has no step there
  (70_reset_and_hazards.md R151). Safe. -/
  | resetDuringExchange
  deriving DecidableEq, Repr

/-- The state right after reset (R40, R152), with the default parameters (R9), nothing pending and empty records. -/
def State.reset : State where
  cfg := Params.default
  fcs := none
  crcPhase := .unseeded
  xphase := .idle
  xlatch := none
  inputs := []
  transport := []
  reports := []
  seen := []

end Sys2Proof.Machine
end

