-- ==== Sys2Proof/Machine/Operands.lean ====
section
/-! DEFINITION. What an operation's operands and parameters fix: the read length (42_exchange.md R116), and the views
of a response (30_encoding.md R84, 42_exchange.md R121). R121 gives the views for a response of 5 or more bytes.
DESIGN CHOICE (log entry 19): on a shorter one they are still total, with 0 for a byte out of range and 0 for an index
or a length below 0. -/

namespace Sys2Proof.Machine

/-- The read length of the two select operations (R116). -/
def selectReadLength : Nat := 5

/-- The read length of `READ_BINARY`: `length + 5` on naturals, 5..260 (R126). -/
def binaryReadLength (length : Byte) : Nat := length.toNat + 5

/-- The read length of `DESELECT` (R116, R127). -/
def deselectReadLength (cfg : Params) : Option Nat :=
  match cfg.deselectRead with
  | .none => none
  | .zeroLength => some 0

/-- `resp_pcb(r)` (R121); below 5 bytes log entry 19. -/
def respPcb (r : List Byte) : Byte := byteAt r 0

/-- `resp_data(r)` (R121); below 5 bytes log entry 19. -/
def respData (r : List Byte) : List Byte := slice r 1 (r.length - 4)

/-- `resp_sw(r)` (R121); below 5 bytes log entry 19. -/
def respSw (r : List Byte) : Byte × Byte := (byteAt r (r.length - 4), byteAt r (r.length - 3))

/-- `resp_crc(r)` (R121); below 5 bytes log entry 19. -/
def respCrc (r : List Byte) : Byte × Byte := (byteAt r (r.length - 2), byteAt r (r.length - 1))

end Sys2Proof.Machine
end

