-- ==== Sys2Proof/Machine/Ops.lean ====
section
/-! DEFINITION. The operations the meanings share: writing the accumulator, delivering an outcome, raising an error,
calling the transport, the exchange and its checks, the monitor, and reset. -/

namespace Sys2Proof.Machine

/-- The outcome of one step. -/
abbrev Result := Host.Outcome State Fault Refusal

/-- Write `fcs` and `crc_phase` (00_scope.md R15). -/
def State.setCrc (s : State) (v : Half) (p : CrcPhase) : State := { s with fcs := some v, crcPhase := p }

/-- Write `crc_phase` alone (R15). -/
def State.setCrcPhase (s : State) (p : CrcPhase) : State := { s with crcPhase := p }

/-- Deliver an operation's outcome to the caller: the block itself keeps nothing of it (10_state.md R28). -/
def State.deliver (s : State) (r : Report) : State := { s with reports := s.reports ++ [r] }

/-- Record a transport call or its answer. -/
def State.record (s : State) (e : TransportEvent) : State := { s with transport := s.transport ++ [e] }

/-- `xphase <- IDLE ; xlatch <- empty` (42_exchange.md R113). -/
def State.endExchange (s : State) : State := { s with xphase := .idle, xlatch := none }

/-- The frame goes to `TWrite` and the block waits for its answer (R113). -/
def State.beginExchange (s : State) (latch : Latch) (frame : List Byte) : State :=
  { s with xlatch := some latch, xphase := .waitWrite, transport := s.transport ++ [.write s.cfg.tagAddr frame] }

/-- `TRead(TAG_ADDR, n)` is called and the block waits for its answer (R113). -/
def State.beginRead (s : State) (n : Nat) : State :=
  { s with xphase := .waitRead, transport := s.transport ++ [.read s.cfg.tagAddr n] }

/-- The monitor's answer for a captured byte sequence (30_encoding.md R81). -/
def State.observe (s : State) (bytes : List Byte) : State := { s with seen := s.seen ++ [classify bytes] }

/-- The registers of the block at their reset values; the parameters keep theirs (70_reset_and_hazards.md R152). -/
def State.resetBlock (s : State) : State :=
  { s with fcs := none, crcPhase := .unseeded, xphase := .idle, xlatch := none }

/-- Raise an error (60_exceptions.md R140): a refusal and a usage fault change nothing, a TransportError and a
ProtocolError end the exchange, and the error is delivered to the caller. Nothing is saved and there is no handler,
so this is both the taking of the error and the return from it (R141). -/
def State.raise (s : State) (r : Report) : State :=
  match r with
  | .result _ => s.deliver r
  | .transportError _ _ => s.endExchange.deliver r
  | .protocolError _ _ => s.endExchange.deliver r
  | .usageFault _ => s.deliver r
  | .refused _ => s.deliver r

/-- Refuse a command word (R135). -/
def State.refuse (s : State) (reason : RefusalReason) : State := s.raise (.refused reason)

/-- An operation issued while `xphase ≠ IDLE` is refused with `BUSY`; otherwise it does its work (10_state.md R39). -/
def whenIdle (s : State) (work : State) : Result :=
  if s.xphase = .idle then .next work else .next (s.refuse .busy)

/-- `exchange(op, f, n, chk)` up to its wait for the write (42_exchange.md R113). -/
def startExchange (op : ProtocolOp) (frame : List Byte) (n : Option Nat) (chk : Bool) (s : State) : Result :=
  whenIdle s (s.beginExchange ⟨op, n, chk⟩ frame)

/-- The response CRC check (R118). -/
def checkedResponse (cfg : Params) (chk : Bool) (data : List Byte) : Report :=
  if chk then
    match cfg.checkCrcMode with
    | .unimplemented => .protocolError .crcCheckUnimplemented data
    | .verify => if crcOk data then .result (.bytes data) else .protocolError .crcMismatch data
  else .result (.bytes data)

/-- The outcome of an exchange whose `TRead` answered `(st, data)`: status, length and CRC flag in that order (R113,
R117, R118). -/
def responseReport (cfg : Params) (n : Nat) (chk : Bool) (st : Int) (data : List Byte) : Report :=
  if st ≠ 0 then .transportError .read st
  else if data.length < n then .protocolError .shortResponse data
  else if n < data.length then
    match cfg.longResponse with
    | .fault => .protocolError .longResponse data
    | .acceptPrefix => checkedResponse cfg chk (data.take n)
  else checkedResponse cfg chk data

/-- The exchange has its outcome: the block is idle, and the outcome is delivered (R113). -/
def State.finish (s : State) (r : Report) : State := s.endExchange.raise r

/-- `TWrite` has answered `st` (R113). -/
def onWrote (st : Int) (reached : Nat) (s : State) : Result :=
  match s.xphase, s.xlatch with
  | .waitWrite, some latch =>
    if st ≠ 0 then .next ((s.record (.wrote st reached)).finish (.transportError .write st))
    else
      match latch.n with
      | none => .next ((s.record (.wrote st reached)).finish (.result (.bytes [])))
      | some n => .next ((s.record (.wrote st reached)).beginRead n)
  | .waitWrite, none => .fault .latchCorrupt
  | .idle, _ => .fault .answerWithoutCall
  | .waitRead, _ => .fault .answerWithoutCall

/-- `TRead` has answered `(st, data)` (R113). -/
def onGot (st : Int) (data : List Byte) (s : State) : Result :=
  match s.xphase, s.xlatch with
  | .waitRead, some latch =>
    match latch.n with
    | some n => .next ((s.record (.got st data)).finish (responseReport s.cfg n latch.chk st data))
    | none => .fault .latchCorrupt
  | .waitRead, none => .fault .latchCorrupt
  | .idle, _ => .fault .answerWithoutCall
  | .waitWrite, _ => .fault .answerWithoutCall

/-- Reset is asked for: it is defined only while `xphase = IDLE` (70_reset_and_hazards.md R151). -/
def onReset (s : State) : Result :=
  if s.xphase = .idle then .next s.resetBlock else .refused .resetDuringExchange

end Sys2Proof.Machine
end

