-- ==== Sys2Proof/Machine/Crc.lean ====
section
/-! DEFINITION. The meanings of the four operations of the CRC16 Engine (40_crc16.md R93 to R97). -/

namespace Sys2Proof.Machine

/-- `CRC_START` (R93). -/
def execCrcStart (s : State) : Result :=
  whenIdle s ((s.setCrc Config.crcSeed .accumulating).deliver (.result .unit))

/-- The work of `CRC_UPDATE` (R94). Reading `fcs` while it holds `⊥` raises `CRC_NOT_SEEDED` (00_scope.md R15). -/
def crcUpdateWork (b : Byte) (s : State) : State :=
  if s.crcPhase = .unseeded then s.raise (.usageFault .crcNotSeeded)
  else if s.crcPhase = .finalized ∧ s.cfg.postFinalizeUpdate = .fault then
    s.raise (.usageFault .updateAfterFinalize)
  else
    match s.fcs with
    | none => s.raise (.usageFault .crcNotSeeded)
    | some r => (s.setCrc (crcStep r b) .accumulating).deliver (.result (.register (crcStep r b)))

/-- `CRC_UPDATE b` (R94). -/
def execCrcUpdate (b : Byte) (s : State) : Result := whenIdle s (crcUpdateWork b s)

/-- The work of `CRC_FINALIZE` (R95). -/
def crcFinalizeWork (s : State) : State :=
  if s.crcPhase = .unseeded then s.raise (.usageFault .crcNotSeeded)
  else
    match s.fcs with
    | none => s.raise (.usageFault .crcNotSeeded)
    | some r => (s.setCrcPhase .finalized).deliver (.result (.pair (lo r) (hi r)))

/-- `CRC_FINALIZE` (R95). -/
def execCrcFinalize (s : State) : Result := whenIdle s (crcFinalizeWork s)

/-- `CRC_COMPUTE buf` (R97): one atomic step with the final state of its expansion. -/
def execCrcCompute (buf : List Byte) (s : State) : Result :=
  whenIdle s ((s.setCrc (crcFold Config.crcSeed buf) .finalized).deliver
    (.result (.pair (lo (crcFold Config.crcSeed buf)) (hi (crcFold Config.crcSeed buf)))))

end Sys2Proof.Machine
end

