-- ==== Sys2Proof/Machine/Monitor.lean ====
section
/-! DEFINITION. The meanings of the five wire-frame rows: a monitor on the transport classifies the captured frame
(30_encoding.md R81). The block does not read its own frames, so nothing of the block changes, in any `xphase`. -/

namespace Sys2Proof.Machine

/-- A captured frame `FK` (R72). -/
def execFrameKillRfSelectI2c (s : State) : Result := .next (s.observe wireKill)

/-- A captured frame `FD` (R73). -/
def execFrameDeselect (s : State) : Result := .next (s.observe wireDeselect)

/-- A captured frame `FA` (R75). -/
def execFrameSelectNfcT4App (pcb c0 c1 : Byte) (s : State) : Result := .next (s.observe (wireSelectApp pcb c0 c1))

/-- A captured frame `FS` (R76). -/
def execFrameSelectFile (pcb : Byte) (fileId : Half) (c0 c1 : Byte) (s : State) : Result :=
  .next (s.observe (wireSelectFile pcb fileId c0 c1))

/-- A captured frame `FR` (R77). -/
def execFrameReadBinary (pcb : Byte) (offset : Half) (length c0 c1 : Byte) (s : State) : Result :=
  .next (s.observe (wireReadBinary pcb offset length c0 c1))

end Sys2Proof.Machine
end

