-- ==== Sys2Proof/Machine/Protocol.lean ====
section
/-! DEFINITION. The meanings of the five protocol operations (42_exchange.md R123 to R127): each hands its frame to
the transport and waits. What follows the wait is `onWrote` and `onGot`. -/

namespace Sys2Proof.Machine

/-- `KILL_RF_SELECT_I2C` (R123). -/
def execKillRfSelectI2c (s : State) : Result := startExchange .killRfSelectI2c frameKill none false s

/-- `SELECT_NFC_T4_APP pcb, chk` (R124). -/
def execSelectNfcT4App (pcb : Byte) (chk : Bool) (s : State) : Result :=
  startExchange .selectNfcT4App (frameSelectApp pcb) (some selectReadLength) chk s

/-- `SELECT_FILE fid, pcb, chk` (R125). -/
def execSelectFile (fileId : Half) (pcb : Byte) (chk : Bool) (s : State) : Result :=
  startExchange .selectFile (frameSelectFile fileId pcb) (some selectReadLength) chk s

/-- `READ_BINARY off, len, pcb, chk` (R126). -/
def execReadBinary (offset : Half) (length pcb : Byte) (chk : Bool) (s : State) : Result :=
  startExchange .readBinary (frameReadBinary offset length pcb) (some (binaryReadLength length)) chk s

/-- `DESELECT` (R127). -/
def execDeselect (s : State) : Result := startExchange .deselect frameDeselect (deselectReadLength s.cfg) false s

end Sys2Proof.Machine
end

