-- ==== Sys2Proof/WellFormed.lean ====
section
/-! DEFINITION. Which instruction terms are well formed: the operand types rule out every bad operand of a
command word (30_encoding.md R62), so the one check is that a wire frame's CRC field closes it (R79). -/

namespace Sys2Proof

open Machine in
/-- A wire frame is well formed when its CRC field is `crcbytes` of the bytes before it (R79); every other
term is. -/
def wellFormed (i : Instr) : Bool :=
  match i with
  | .crcStart => true
  | .crcUpdate _ => true
  | .crcFinalize => true
  | .crcCompute _ => true
  | .killRfSelectI2c => true
  | .selectNfcT4App _ _ => true
  | .selectFile _ _ _ => true
  | .readBinary _ _ _ _ => true
  | .deselect => true
  | .reservedOp9 _ => true
  | .reservedOpAB _ _ => true
  | .reservedOpCF _ _ => true
  | .frameKillRfSelectI2c => true
  | .frameDeselect => true
  | .frameSelectNfcT4App pcb c0 c1 => decide ([c0, c1] = crcBytes (bodySelectApp pcb))
  | .frameSelectFile pcb fileId c0 c1 => decide ([c0, c1] = crcBytes (bodySelectFile fileId pcb))
  | .frameReadBinary pcb offset length c0 c1 => decide ([c0, c1] = crcBytes (bodyReadBinary offset length pcb))

end Sys2Proof
end

