-- ==== Sys2Proof/Decode.lean ====
section
/-! DEFINITION. Decoding a command word (30_encoding.md R69) and a captured frame (R72 to R77), total on any
packet and refusing by name; then the encoder (R86), the opcode table, and the host's `decodeTableWord`. -/

namespace Sys2Proof

open Machine

/-- `op = CW[3:0]` (R62). -/
def opField (w : CmdWord) : BitVec 4 := w.extractLsb' 0 4

/-- `chk = CW[4]` (R62, R63). -/
def chkField (w : CmdWord) : Bool := w.getLsbD 4

/-- `rsv = CW[7:5]` (R62, R64). -/
def rsvField (w : CmdWord) : BitVec 3 := w.extractLsb' 5 3

/-- `a8 = CW[15:8]` (R62, R65). -/
def a8Field (w : CmdWord) : Byte := w.extractLsb' 8 8

/-- `a16 = CW[31:16]` (R62, R66). -/
def a16Field (w : CmdWord) : Half := w.extractLsb' 16 16

/-- `len = CW[39:32]` (R62, R67). -/
def lenField (w : CmdWord) : Byte := w.extractLsb' 32 8

/-- The operations that use `a8` (R68). -/
def usesA8 (op : BitVec 4) : Bool := op = 0x1 || op = 0x5 || op = 0x6 || op = 0x7

/-- The operations that use `a16` (R68). -/
def usesA16 (op : BitVec 4) : Bool := op = 0x6 || op = 0x7

/-- The operation that uses `len` (R68). -/
def usesLen (op : BitVec 4) : Bool := op = 0x7

/-- The operations on which `chk = 1` is legal (R63). -/
def usesChk (op : BitVec 4) : Bool := op = 0x5 || op = 0x6 || op = 0x7

/-- `unused_fields_nonzero(op, a8, a16, len)` (R69). -/
def unusedFieldsNonzero (op : BitVec 4) (a8 : Byte) (a16 : Half) (len : Byte) : Bool :=
  (!usesA8 op && a8 != 0) || (!usesA16 op && a16 != 0) || (!usesLen op && len != 0)

/-- The table row of a reserved word, `op` in 0x9..0xF (R68). -/
def reservedInstr (w : CmdWord) : Instr :=
  if opField w = 0x9 then .reservedOp9 (w.extractLsb' 4 36)
  else if w.extractLsb' 1 3 = 5#3 then .reservedOpAB (w.extractLsb' 4 36) (w.extractLsb' 0 1)
  else .reservedOpCF (w.extractLsb' 4 36) (w.extractLsb' 0 2)

/-- `Operation(op, chk, a8, a16, len, buf?)` of R69 for a checked word (R68). -/
def operation (op : BitVec 4) (chk : Bool) (a8 : Byte) (a16 : Half) (len : Byte) (buf : List Byte) : Instr :=
  if op = 0x0 then .crcStart
  else if op = 0x1 then .crcUpdate a8
  else if op = 0x2 then .crcFinalize
  else if op = 0x3 then .crcCompute buf
  else if op = 0x4 then .killRfSelectI2c
  else if op = 0x5 then .selectNfcT4App a8 chk
  else if op = 0x6 then .selectFile a16 a8 chk
  else if op = 0x7 then .readBinary a16 len a8 chk
  else .deselect

/-- Every element of `buf` is a byte (R70). -/
def bufInRange (buf : List Nat) : Bool := buf.all (· < 256)

/-- `decode(CW, buf?)` (R69), its checks in that order, and after them `OPERAND_RANGE` (R70, R139 order 5). A
reserved code decodes to its own table row, whose meaning is the refusal. -/
def decodeCommand (w : CmdWord) (buf : Option (List Nat)) : Except RefusalReason Instr :=
  if 0x9 ≤ opField w then .ok (reservedInstr w)
  else if rsvField w ≠ 0 then .error (.reservedField w)
  else if unusedFieldsNonzero (opField w) (a8Field w) (a16Field w) (lenField w) then .error (.reservedField w)
  else if chkField w ∧ ¬ usesChk (opField w) then .error (.reservedField w)
  else if (opField w = 0x3) ≠ (buf.isSome = true) then .error .operandShape
  else if ¬ bufInRange (buf.getD []) then .error .operandRange
  else .ok (operation (opField w) (chkField w) (a8Field w) (a16Field w) (lenField w)
    ((buf.getD []).map (BitVec.ofNat 8)))

/-- The row of the table's five wire-frame rows that a byte sequence matches: its length and every byte the
row's mask fixes (R72 to R77). The CRC field of `FA`, `FS` and `FR` is an operand. -/
def decodeFrame (s : List Byte) : Option Instr :=
  if s = wireKill then some .frameKillRfSelectI2c
  else if s = wireDeselect then some .frameDeselect
  else if s.length = 16 ∧ slice s 1 14 = (bodySelectApp 0).drop 1 then
    some (.frameSelectNfcT4App (byteAt s 0) (byteAt s 14) (byteAt s 15))
  else if s.length = 10 ∧ slice s 1 6 = [0x00, 0xA4, 0x00, 0x0C, 0x02] then
    some (.frameSelectFile (byteAt s 0) (join (byteAt s 6) (byteAt s 7)) (byteAt s 8) (byteAt s 9))
  else if s.length = 8 ∧ slice s 1 3 = [0x00, 0xB0] then
    some (.frameReadBinary (byteAt s 0) (join (byteAt s 3) (byteAt s 4)) (byteAt s 5) (byteAt s 6) (byteAt s 7))
  else none

/-- The decoder: total on any packet. -/
def decode : Packet → Except DecodeError Instr
  | .command w buf =>
    match decodeCommand w buf with
    | .ok i => .ok i
    | .error reason => .error (.refused reason)
  | .frame s =>
    match decodeFrame s with
    | some i => .ok i
    | none => .error .notABlockFrame

/-- The command word of R86, from its formula. -/
def assemble (op : BitVec 4) (chk : Bool) (a8 : Byte) (a16 : Half) (len : Byte) : CmdWord :=
  (len.setWidth 40 <<< 32) ||| (a16.setWidth 40 <<< 16) ||| (a8.setWidth 40 <<< 8)
    ||| ((BitVec.ofBool chk).setWidth 40 <<< 4) ||| op.setWidth 40

/-- The word of the row `RESERVED_OP`, `op = 0x9`. -/
def reservedWord9 (upper : BitVec 36) : CmdWord := upper ++ 0x9#4

/-- The word of the row `RESERVED_OP`, `op = 0xA..0xB`. -/
def reservedWordAB (upper : BitVec 36) (low : BitVec 1) : CmdWord := upper ++ (5#3 ++ low)

/-- The word of the row `RESERVED_OP`, `op = 0xC..0xF`. -/
def reservedWordCF (upper : BitVec 36) (low : BitVec 2) : CmdWord := upper ++ (3#2 ++ low)

/-- The encoder: the packet of an instruction (R68, R72 to R77, R86). -/
def encode : Instr → Packet
  | .crcStart => .command (assemble 0x0 false 0 0 0) none
  | .crcUpdate b => .command (assemble 0x1 false b 0 0) none
  | .crcFinalize => .command (assemble 0x2 false 0 0 0) none
  | .crcCompute buf => .command (assemble 0x3 false 0 0 0) (some (buf.map BitVec.toNat))
  | .killRfSelectI2c => .command (assemble 0x4 false 0 0 0) none
  | .selectNfcT4App pcb chk => .command (assemble 0x5 chk pcb 0 0) none
  | .selectFile fileId pcb chk => .command (assemble 0x6 chk pcb fileId 0) none
  | .readBinary offset length pcb chk => .command (assemble 0x7 chk pcb offset length) none
  | .deselect => .command (assemble 0x8 false 0 0 0) none
  | .reservedOp9 upper => .command (reservedWord9 upper) none
  | .reservedOpAB upper low => .command (reservedWordAB upper low) none
  | .reservedOpCF upper low => .command (reservedWordCF upper low) none
  | .frameKillRfSelectI2c => .frame wireKill
  | .frameDeselect => .frame wireDeselect
  | .frameSelectNfcT4App pcb c0 c1 => .frame (wireSelectApp pcb c0 c1)
  | .frameSelectFile pcb fileId c0 c1 => .frame (wireSelectFile pcb fileId c0 c1)
  | .frameReadBinary pcb offset length c0 c1 => .frame (wireReadBinary pcb offset length c0 c1)

/-- A command-word row of spec/opcode_table.json: a word is of the row when `w and mask = match`. -/
structure OpcodeRow where
  mask : CmdWord
  pattern : CmdWord
  deriving DecidableEq, Repr

/-- The twelve command-word rows of spec/opcode_table.json, in its order. -/
def opcodeTable : List OpcodeRow :=
  [ ⟨0xFFFFFFFFFF, 0x0000000000⟩,
    ⟨0xFFFFFF00FF, 0x0000000001⟩,
    ⟨0xFFFFFFFFFF, 0x0000000002⟩,
    ⟨0xFFFFFFFFFF, 0x0000000003⟩,
    ⟨0xFFFFFFFFFF, 0x0000000004⟩,
    ⟨0xFFFFFF00EF, 0x0000000005⟩,
    ⟨0xFF000000EF, 0x0000000006⟩,
    ⟨0x00000000EF, 0x0000000007⟩,
    ⟨0xFFFFFFFFFF, 0x0000000008⟩,
    ⟨0x000000000F, 0x0000000009⟩,
    ⟨0x000000000E, 0x000000000A⟩,
    ⟨0x000000000C, 0x000000000C⟩ ]

/-- A word is of a row. -/
def OpcodeRow.matches (row : OpcodeRow) (w : CmdWord) : Bool := w &&& row.mask = row.pattern

/-- The operand beside a word that the table gives no bits: for `CRC_COMPUTE` the empty sequence. -/
def tableBuf (w : CmdWord) : Option (List Nat) := if opField w = 0x3 then some [] else none

/-- The `k` low bytes of `w`, the most significant first: the table writes byte 0 of a wire frame as the most
significant byte of its pattern. -/
def bytesOfNat : Nat → Nat → List Byte
  | 0, _ => []
  | k + 1, w => BitVec.ofNat 8 (w >>> (8 * k)) :: bytesOfNat k w

/-- The packet of a table row's bits: the wire-frame rows are those of 8, 24, 64, 80 and 128 bits, and every
other number of bits is taken as a command word. -/
def tablePacket (nbits w : Nat) : Packet :=
  if nbits = 8 ∨ nbits = 24 ∨ nbits = 64 ∨ nbits = 80 ∨ nbits = 128 then .frame (bytesOfNat (nbits / 8) w)
  else .command (BitVec.ofNat 40 w) (tableBuf (BitVec.ofNat 40 w))

/-- The instruction the decoder reads from a table row's bits. -/
def decodeTableWord (nbits w : Nat) : Option Instr := (decode (tablePacket nbits w)).toOption

end Sys2Proof
end

