-- ==== Sys2Proof/Machine/Reserved.lean ====
section
/-! DEFINITION. The meanings of the three reserved rows of the opcode table: the word is refused with `RESERVED_OP`,
and `BUSY` is checked first (30_encoding.md R69, 60_exceptions.md R135, R139). -/

namespace Sys2Proof.Machine

/-- `RESERVED_OP`, `op = 0x9`. -/
def execReservedOp9 (upper : BitVec 36) (s : State) : Result :=
  whenIdle s (s.refuse (.reservedOp (reservedWord9 upper)))

/-- `RESERVED_OP`, `op = 0xA..0xB`. -/
def execReservedOpAB (upper : BitVec 36) (low : BitVec 1) (s : State) : Result :=
  whenIdle s (s.refuse (.reservedOp (reservedWordAB upper low)))

/-- `RESERVED_OP`, `op = 0xC..0xF`. -/
def execReservedOpCF (upper : BitVec 36) (low : BitVec 2) (s : State) : Result :=
  whenIdle s (s.refuse (.reservedOp (reservedWordCF upper low)))

end Sys2Proof.Machine
end

