-- ==== Sys2Proof/Machine/Dispatch.lean ====
section
/-! DEFINITION. One arm per instruction. -/

namespace Sys2Proof.Machine

/-- The effect of one instruction. -/
def exec (i : Instr) (s : State) : Host.Outcome State Fault Refusal :=
  match i with
  | .crcStart => Sys2Proof.Machine.execCrcStart s
  | .crcUpdate b => Sys2Proof.Machine.execCrcUpdate b s
  | .crcFinalize => Sys2Proof.Machine.execCrcFinalize s
  | .crcCompute buf => Sys2Proof.Machine.execCrcCompute buf s
  | .killRfSelectI2c => Sys2Proof.Machine.execKillRfSelectI2c s
  | .selectNfcT4App pcb chk => Sys2Proof.Machine.execSelectNfcT4App pcb chk s
  | .selectFile fileId pcb chk => Sys2Proof.Machine.execSelectFile fileId pcb chk s
  | .readBinary offset length pcb chk => Sys2Proof.Machine.execReadBinary offset length pcb chk s
  | .deselect => Sys2Proof.Machine.execDeselect s
  | .reservedOp9 upper => Sys2Proof.Machine.execReservedOp9 upper s
  | .reservedOpAB upper low => Sys2Proof.Machine.execReservedOpAB upper low s
  | .reservedOpCF upper low => Sys2Proof.Machine.execReservedOpCF upper low s
  | .frameKillRfSelectI2c => Sys2Proof.Machine.execFrameKillRfSelectI2c s
  | .frameDeselect => Sys2Proof.Machine.execFrameDeselect s
  | .frameSelectNfcT4App pcb c0 c1 => Sys2Proof.Machine.execFrameSelectNfcT4App pcb c0 c1 s
  | .frameSelectFile pcb fileId c0 c1 => Sys2Proof.Machine.execFrameSelectFile pcb fileId c0 c1 s
  | .frameReadBinary pcb offset length c0 c1 => Sys2Proof.Machine.execFrameReadBinary pcb offset length c0 c1 s

end Sys2Proof.Machine
end

