-- ==== Sys2Proof/Machine/Fetch.lean ====
section
/-! DEFINITION. Taking the next event: a packet is decoded and run, or refused by name (60_exceptions.md R139). -/

namespace Sys2Proof.Machine

/-- A packet is presented. A command word that decodes to no operation is refused, and `BUSY` comes before every
other refusal (R139 order 1). The monitor answers `NOT_A_BLOCK_FRAME` for a byte sequence of no format
(30_encoding.md R82). -/
def onPacket (p : Packet) (s : State) : Result :=
  match p with
  | .command w buf =>
    match decodeCommand w buf with
    | .ok i => exec i s
    | .error reason => whenIdle s (s.refuse reason)
  | .frame bytes =>
    match decodeFrame bytes with
    | some i => exec i s
    | none => .next (s.observe bytes)

/-- The state with its pending events replaced. -/
def State.withInputs (s : State) (inputs : List Input) : State := { s with inputs := inputs }

/-- One event, taken from the front of the pending events. -/
def onInput (e : Input) (s : State) : Result :=
  match e with
  | .packet p => onPacket p s
  | .wrote st reached => onWrote st reached s
  | .got st data => onGot st data s
  | .reset => onReset s

/-- The next event is taken; with none pending the block stays as it is, idle or hung (60_exceptions.md R142). -/
def nextEvent (s : State) : Result :=
  match s.inputs with
  | [] => .next s
  | e :: rest => onInput e (s.withInputs rest)

/-- The packet of a table row's bits comes next. -/
def placeTableWord (s : State) (nbits w : Nat) : State := s.withInputs (.packet (tablePacket nbits w) :: s.inputs)

end Sys2Proof.Machine
end

