-- ==== Sys2Proof/Machine/Assembler.lean ====
section
/-! DEFINITION. The assembly lines and pseudo-operations of the spec (30_encoding.md R85 to R87): what instruction a
line stands for, its command word, and its spelling. -/

namespace Sys2Proof.Machine

/-- A `fid` operand: a 16-bit value or one of the three symbols (R85). -/
inductive FileName
  | value (v : Half)
  | system
  | cc
  | ndef
  deriving DecidableEq, Repr

/-- The identifier a `fid` operand stands for (R85, 20_memory.md R43). -/
def FileName.id : FileName → Half
  | .value v => v
  | .system => Config.fidSystem
  | .cc => Config.fidCc
  | .ndef => Config.fidNdef

/-- A line of assembly: an operation of R85 or a pseudo-operation of R87; `none` is an absent operand. -/
inductive AsmLine
  | crcStart
  | crcUpdate (b : Byte)
  | crcFinalize
  | crcCompute (buf : List Byte)
  | killRfSelectI2c
  | selectNfcT4App (pcb : Option Byte) (chk : Option Bool)
  | selectFile (fid : FileName) (pcb : Option Byte) (chk : Option Bool)
  | readBinary (off : Half) (len : Byte) (pcb : Option Byte) (chk : Option Bool)
  | deselect
  | selectSystem (pcb : Option Byte)
  | selectCc (pcb : Option Byte)
  | selectNdef (pcb : Option Byte)
  | probeLength (pcb : Option Byte)
  deriving DecidableEq, Repr

/-- An absent `pcb` is 0x02 (R85). -/
def pcbOrDefault (pcb : Option Byte) : Byte := pcb.getD Config.pcbDefault

/-- An absent `chk` is 0 (R85). -/
def chkOrDefault (chk : Option Bool) : Bool := chk.getD false

/-- The expansion of a pseudo-operation (R87); any other line is left as it is. -/
def AsmLine.expand : AsmLine → AsmLine
  | .selectSystem pcb => .selectFile (.value 0xE101) pcb none
  | .selectCc pcb => .selectFile (.value 0xE103) pcb none
  | .selectNdef pcb => .selectFile (.value 0x0001) pcb none
  | .probeLength pcb => .readBinary 0x0000 0x02 pcb none
  | line => line

/-- The instruction a line stands for. -/
def AsmLine.instr : AsmLine → Instr
  | .crcStart => .crcStart
  | .crcUpdate b => .crcUpdate b
  | .crcFinalize => .crcFinalize
  | .crcCompute buf => .crcCompute buf
  | .killRfSelectI2c => .killRfSelectI2c
  | .selectNfcT4App pcb chk => .selectNfcT4App (pcbOrDefault pcb) (chkOrDefault chk)
  | .selectFile fid pcb chk => .selectFile fid.id (pcbOrDefault pcb) (chkOrDefault chk)
  | .readBinary off len pcb chk => .readBinary off len (pcbOrDefault pcb) (chkOrDefault chk)
  | .deselect => .deselect
  | .selectSystem pcb => .selectFile Config.fidSystem (pcbOrDefault pcb) false
  | .selectCc pcb => .selectFile Config.fidCc (pcbOrDefault pcb) false
  | .selectNdef pcb => .selectFile Config.fidNdef (pcbOrDefault pcb) false
  | .probeLength pcb => .readBinary 0x0000 0x02 (pcbOrDefault pcb) false

/-- The packet a line assembles to (R86). -/
def AsmLine.packet (line : AsmLine) : Packet := encode line.instr

/-- One hexadecimal digit. -/
def hexDigit (n : Nat) : Char := ("0123456789ABCDEF".toList).getD (n % 16) '0'

/-- The `k` low hexadecimal digits of `n`, the most significant first. -/
def hexDigits : Nat → Nat → List Char
  | 0, _ => []
  | k + 1, n => hexDigit (n >>> (4 * k)) :: hexDigits k n

/-- A byte spelled `0x..` (R85). -/
def spellByte (b : Byte) : String := "0x" ++ String.ofList (hexDigits 2 b.toNat)

/-- A 16-bit value spelled `0x....` (R85). -/
def spellHalf (v : Half) : String := "0x" ++ String.ofList (hexDigits 4 v.toNat)

/-- The spelling of a `fid` operand (R85). -/
def FileName.spell : FileName → String
  | .value v => spellHalf v
  | .system => "SYSTEM"
  | .cc => "CC"
  | .ndef => "NDEF"

/-- The operand `pcb`, where it is given. -/
def spellPcb : Option Byte → List String
  | none => []
  | some b => ["pcb=" ++ spellByte b]

/-- The operand `chk`, where it is given. -/
def spellChk : Option Bool → List String
  | none => []
  | some c => ["chk=" ++ (if c then "1" else "0")]

/-- A mnemonic and its operands, separated by commas (R85). -/
def spellLine (mnemonic : String) (operands : List String) : String :=
  match operands with
  | [] => mnemonic
  | _ => mnemonic ++ " " ++ ", ".intercalate operands

/-- The spelling of a line (R85, R87). -/
def AsmLine.spell : AsmLine → String
  | .crcStart => spellLine "CRC_START" []
  | .crcUpdate b => spellLine "CRC_UPDATE" ["b=" ++ spellByte b]
  | .crcFinalize => spellLine "CRC_FINALIZE" []
  | .crcCompute buf =>
    spellLine "CRC_COMPUTE" ["buf=[" ++ " ".intercalate (buf.map fun b => String.ofList (hexDigits 2 b.toNat)) ++ "]"]
  | .killRfSelectI2c => spellLine "KILL_RF_SELECT_I2C" []
  | .selectNfcT4App pcb chk => spellLine "SELECT_NFC_T4_APP" (spellPcb pcb ++ spellChk chk)
  | .selectFile fid pcb chk => spellLine "SELECT_FILE" (["fid=" ++ fid.spell] ++ spellPcb pcb ++ spellChk chk)
  | .readBinary off len pcb chk =>
    spellLine "READ_BINARY" (["off=" ++ spellHalf off, "len=" ++ spellByte len] ++ spellPcb pcb ++ spellChk chk)
  | .deselect => spellLine "DESELECT" []
  | .selectSystem pcb => spellLine "SELECT_SYSTEM" (spellPcb pcb)
  | .selectCc pcb => spellLine "SELECT_CC" (spellPcb pcb)
  | .selectNdef pcb => spellLine "SELECT_NDEF" (spellPcb pcb)
  | .probeLength pcb => spellLine "PROBE_LENGTH" (spellPcb pcb)

end Sys2Proof.Machine
end

