-- ==== Sys2Proof/Machine/Flags.lean ====
section
/-! DEFINITION. The block has no flags (10_state.md R28). What stands in their place is the outcome of an operation;
this file gives its cause code (60_exceptions.md R139). -/

namespace Sys2Proof.Machine

/-- The cause code of a refusal (R139). -/
def refusalCode : RefusalReason → Nat
  | .busy => 0x40
  | .reservedOp _ => 0x41
  | .reservedField _ => 0x42
  | .operandShape => 0x43
  | .operandRange => 0x44

/-- The cause code of an outcome (R139). -/
def causeCode : Report → Nat
  | .result _ => 0x00
  | .transportError .write _ => 0x10
  | .transportError .read _ => 0x11
  | .protocolError .shortResponse _ => 0x20
  | .protocolError .longResponse _ => 0x21
  | .protocolError .crcCheckUnimplemented _ => 0x22
  | .protocolError .crcMismatch _ => 0x23
  | .usageFault .crcNotSeeded => 0x30
  | .usageFault .updateAfterFinalize => 0x31
  | .refused reason => refusalCode reason

end Sys2Proof.Machine
end

