-- ==== Sys2Proof/Safety.lean ====
section
/-! DEFINITION. What a safe run is, in the terms the statements use: the invariant of the registers, the legal
conversation with the transport, the premise on the transport, the order the tag expects, and the caller's duties. -/

namespace Sys2Proof.Safety

open Machine

/-- The five protocol operations (10_state.md R38). -/
def isProtocolOp : Instr → Bool
  | .crcStart => false
  | .crcUpdate _ => false
  | .crcFinalize => false
  | .crcCompute _ => false
  | .killRfSelectI2c => true
  | .selectNfcT4App _ _ => true
  | .selectFile _ _ _ => true
  | .readBinary _ _ _ _ => true
  | .deselect => true
  | .reservedOp9 _ => false
  | .reservedOpAB _ _ => false
  | .reservedOpCF _ _ => false
  | .frameKillRfSelectI2c => false
  | .frameDeselect => false
  | .frameSelectNfcT4App _ _ _ => false
  | .frameSelectFile _ _ _ _ => false
  | .frameReadBinary _ _ _ _ _ => false

/-- The four operations of the CRC16 Engine (40_crc16.md R88). -/
def isCrcOp : Instr → Bool
  | .crcStart => true
  | .crcUpdate _ => true
  | .crcFinalize => true
  | .crcCompute _ => true
  | .killRfSelectI2c => false
  | .selectNfcT4App _ _ => false
  | .selectFile _ _ _ => false
  | .readBinary _ _ _ _ => false
  | .deselect => false
  | .reservedOp9 _ => false
  | .reservedOpAB _ _ => false
  | .reservedOpCF _ _ => false
  | .frameKillRfSelectI2c => false
  | .frameDeselect => false
  | .frameSelectNfcT4App _ _ _ => false
  | .frameSelectFile _ _ _ _ => false
  | .frameReadBinary _ _ _ _ _ => false

/-- The five wire-frame rows. -/
def isFrame : Instr → Bool
  | .crcStart => false
  | .crcUpdate _ => false
  | .crcFinalize => false
  | .crcCompute _ => false
  | .killRfSelectI2c => false
  | .selectNfcT4App _ _ => false
  | .selectFile _ _ _ => false
  | .readBinary _ _ _ _ => false
  | .deselect => false
  | .reservedOp9 _ => false
  | .reservedOpAB _ _ => false
  | .reservedOpCF _ _ => false
  | .frameKillRfSelectI2c => true
  | .frameDeselect => true
  | .frameSelectNfcT4App _ _ _ => true
  | .frameSelectFile _ _ _ _ => true
  | .frameReadBinary _ _ _ _ _ => true

/-- The three reserved rows. -/
def isReserved : Instr → Bool
  | .crcStart => false
  | .crcUpdate _ => false
  | .crcFinalize => false
  | .crcCompute _ => false
  | .killRfSelectI2c => false
  | .selectNfcT4App _ _ => false
  | .selectFile _ _ _ => false
  | .readBinary _ _ _ _ => false
  | .deselect => false
  | .reservedOp9 _ => true
  | .reservedOpAB _ _ => true
  | .reservedOpCF _ _ => true
  | .frameKillRfSelectI2c => false
  | .frameDeselect => false
  | .frameSelectNfcT4App _ _ _ => false
  | .frameSelectFile _ _ _ _ => false
  | .frameReadBinary _ _ _ _ _ => false

/-- What the latch may hold for each operation (10_state.md R31, 42_exchange.md R116, 30_encoding.md R63). -/
def LatchLegal (cfg : Params) (l : Latch) : Prop :=
  match l.op with
  | .killRfSelectI2c => l.n = none ∧ l.chk = false
  | .selectNfcT4App => l.n = some 5
  | .selectFile => l.n = some 5
  | .readBinary => ∃ n, l.n = some n ∧ 5 ≤ n ∧ n ≤ 260
  | .deselect => l.chk = false ∧
      ((cfg.deselectRead = .none ∧ l.n = none) ∨ (cfg.deselectRead = .zeroLength ∧ l.n = some 0))

/-- The invariant of the block's registers: `fcs` holds `⊥` exactly while `UNSEEDED` (R22, R23), the latch is empty
exactly while `IDLE` (R31), and what it holds is legal. -/
structure Inv (s : State) : Prop where
  seeded : s.fcs = none ↔ s.crcPhase = .unseeded
  latched : s.xlatch = none ↔ s.xphase = .idle
  legal : ∀ l, s.xlatch = some l → LatchLegal s.cfg l
  reading : ∀ l, s.xlatch = some l → s.xphase = .waitRead → l.n ≠ none

/-- The read that follows a frame on the wire, from the frame alone (42_exchange.md R116, R128). -/
def expectedRead (cfg : Params) : FrameClass → Option Nat
  | .killRfSelectI2c => none
  | .deselect =>
    match cfg.deselectRead with
    | .none => none
    | .zeroLength => some 0
  | .selectNfcT4App _ => some 5
  | .selectFile _ _ => some 5
  | .readBinary _ _ length => some (length.toNat + 5)
  | .notABlockFrame => none

/-- Where a conversation with the transport stands. -/
inductive BusState
  /-- No call is outstanding, and the next call is a write. -/
  | quiet
  /-- A write is outstanding, and `next` is the read that follows it if it succeeds. -/
  | writing (next : Option Nat)
  /-- A write has succeeded and a read of `n` bytes must follow. -/
  | mustRead (n : Nat)
  /-- A read is outstanding. -/
  | reading
  deriving DecidableEq, Repr

/-- The conversations the rules allow: every write sends one of the five frames to the tag (30_encoding.md R82), no
call is made while another is outstanding (20_memory.md R57), a failed call is followed by no call of the same
operation (42_exchange.md R129), and a successful write is followed by the read its frame calls for (R128). -/
def busNext (cfg : Params) : BusState → TransportEvent → Option BusState
  | .quiet, .write addr f =>
    if addr = cfg.tagAddr ∧ classify f ≠ .notABlockFrame then some (.writing (expectedRead cfg (classify f))) else none
  | .writing next, .wrote st _ =>
    if st ≠ 0 then some .quiet
    else
      match next with
      | none => some .quiet
      | some n => some (.mustRead n)
  | .mustRead n, .read addr m => if addr = cfg.tagAddr ∧ m = n then some .reading else none
  | .reading, .got _ _ => some .quiet
  | _, _ => none

/-- A whole conversation from `b`. -/
def busRun (cfg : Params) : BusState → List TransportEvent → Option BusState
  | b, [] => some b
  | b, e :: es =>
    match busNext cfg b e with
    | none => none
    | some b' => busRun cfg b' es

/-- Where the conversation stands, as the exchange registers tell it. -/
def busNow (s : State) : BusState :=
  match s.xphase with
  | .idle => .quiet
  | .waitWrite => .writing (s.xlatch.bind Latch.n)
  | .waitRead => .reading

/-- The transport log is a legal conversation that stands where the exchange registers say. -/
def Conversation (s : State) : Prop := busRun s.cfg .quiet s.transport = some (busNow s)

/-- `TransportConforms` (42_exchange.md R114) for the event that comes next: a read that succeeds returns exactly as
many bytes as were asked for. No step assumes it. -/
def TransportConforms (s : State) : Prop :=
  ∀ data rest l n, s.inputs = .got 0 data :: rest → s.xphase = .waitRead → s.xlatch = some l → l.n = some n →
    data.length = n

/-- What reached the tag, one entry for each answered write: the frame when the write succeeded, and the prefix the
transport's answer names when it failed (20_memory.md R54). -/
def tagReceived : List TransportEvent → List (List Byte)
  | [] => []
  | .write _ f :: es =>
    match es with
    | .wrote st reached :: _ => (if st = 0 then f else f.take reached) :: tagReceived es
    | _ => tagReceived es
  | .wrote _ _ :: es => tagReceived es
  | .read _ _ :: es => tagReceived es
  | .got _ _ :: es => tagReceived es

/-- Several instructions issued one after another, stopping at the first stop. -/
def execAll : List Instr → State → Host.Outcome State Fault Refusal
  | [], s => .next s
  | i :: is, s =>
    match exec i s with
    | .next t => execAll is t
    | .fault f => .fault f
    | .refused r => .refused r

/-- One operation from its command word on: it is presented with the answers its transport calls get, and every one of
these events is taken. -/
def perform (i : Instr) (answers : List Input) (s : State) : Host.Outcome State Fault Refusal :=
  Host.Core.run Sys2Proof.core (answers.length + 1) { s with inputs := .packet (encode i) :: answers }

/-- Several operations performed one after another, each with its answers, stopping at the first stop. -/
def performAll : List (Instr × List Input) → State → Host.Outcome State Fault Refusal
  | [], s => .next s
  | (i, answers) :: rest, s =>
    match perform i answers s with
    | .next t => performAll rest t
    | .fault f => .fault f
    | .refused r => .refused r

/-- The expansion of `CRC_COMPUTE buf` (30_encoding.md R87, 40_crc16.md R99). -/
def computeExpansion (buf : List Byte) : List Instr := .crcStart :: (buf.map Instr.crcUpdate ++ [.crcFinalize])

/-- The states in which the tag expects operations (42_exchange.md R130). The block holds none of this. -/
inductive TagState
  | idle
  | i2cSession
  | appSelected
  | fileSelected (fileId : Half)
  deriving DecidableEq, Repr

/-- The tag's expected order (R130); a CRC operation does not reach the tag. The transitions are those of operations
whose exchange succeeds; what a failed one does to the tag the spec leaves open (log entry 21). -/
def tagNext : TagState → Instr → Option TagState
  | .idle, .killRfSelectI2c => some .i2cSession
  | .i2cSession, .selectNfcT4App _ _ => some .appSelected
  | .appSelected, .selectFile fileId _ _ => some (.fileSelected fileId)
  | .fileSelected fileId, .readBinary _ _ _ _ => some (.fileSelected fileId)
  | .fileSelected _, .selectFile fileId _ _ => some (.fileSelected fileId)
  | .fileSelected _, .deselect => some .idle
  | t, i => if isProtocolOp i then none else some t

/-- A sequence of operations is in the order the tag expects. DESIGN CHOICE (log entry 21): the predicate looks at the
operations alone and counts every one as having moved the tag, also one whose exchange failed. The spec does not say
whether a failed one does (20_memory.md R54). -/
def inTagOrder : TagState → List Instr → Bool
  | _, [] => true
  | t, i :: is =>
    match tagNext t i with
    | none => false
    | some t' => inTagOrder t' is

/-- The caller's duties "seed before fold" and "fresh seed per frame" (70_reset_and_hazards.md R156, R157) for a
sequence of operations issued from phase `p`. -/
def seedsBeforeFolding : CrcPhase → List Instr → Bool
  | _, [] => true
  | _, .crcStart :: is => seedsBeforeFolding .accumulating is
  | _, .crcCompute _ :: is => seedsBeforeFolding .finalized is
  | p, .crcUpdate _ :: is => decide (p = .accumulating) && seedsBeforeFolding .accumulating is
  | p, .crcFinalize :: is => decide (p ≠ .unseeded) && seedsBeforeFolding .finalized is
  | p, .killRfSelectI2c :: is => seedsBeforeFolding p is
  | p, .selectNfcT4App _ _ :: is => seedsBeforeFolding p is
  | p, .selectFile _ _ _ :: is => seedsBeforeFolding p is
  | p, .readBinary _ _ _ _ :: is => seedsBeforeFolding p is
  | p, .deselect :: is => seedsBeforeFolding p is
  | p, .reservedOp9 _ :: is => seedsBeforeFolding p is
  | p, .reservedOpAB _ _ :: is => seedsBeforeFolding p is
  | p, .reservedOpCF _ _ :: is => seedsBeforeFolding p is
  | p, .frameKillRfSelectI2c :: is => seedsBeforeFolding p is
  | p, .frameDeselect :: is => seedsBeforeFolding p is
  | p, .frameSelectNfcT4App _ _ _ :: is => seedsBeforeFolding p is
  | p, .frameSelectFile _ _ _ _ :: is => seedsBeforeFolding p is
  | p, .frameReadBinary _ _ _ _ _ :: is => seedsBeforeFolding p is

/-- The PCB an operation sends. -/
def pcbOf : Instr → Option Byte
  | .crcStart => none
  | .crcUpdate _ => none
  | .crcFinalize => none
  | .crcCompute _ => none
  | .killRfSelectI2c => none
  | .selectNfcT4App pcb _ => some pcb
  | .selectFile _ pcb _ => some pcb
  | .readBinary _ _ pcb _ => some pcb
  | .deselect => none
  | .reservedOp9 _ => none
  | .reservedOpAB _ _ => none
  | .reservedOpCF _ _ => none
  | .frameKillRfSelectI2c => none
  | .frameDeselect => none
  | .frameSelectNfcT4App _ _ _ => none
  | .frameSelectFile _ _ _ _ => none
  | .frameReadBinary _ _ _ _ _ => none

/-- The caller's duty of PCB alternation between 0x02 and 0x03 (70_reset_and_hazards.md R159), with the last PCB
sent. The block does not check it. DESIGN CHOICE (log entry 20): an operation that sends no PCB (`KILL_RF_SELECT_I2C`,
`DESELECT`) and a new session neither interrupt nor restart the alternation, the first PCB may be either value, and a
failed exchange counts as one that sent its PCB. The spec says nothing of these. -/
def pcbAlternates : Option Byte → List Instr → Bool
  | _, [] => true
  | last, i :: is =>
    match pcbOf i with
    | none => pcbAlternates last is
    | some pcb => decide (pcb = 0x02 ∨ pcb = 0x03) && decide (last ≠ some pcb) && pcbAlternates (some pcb) is

/-- A word of an opcode-table row. -/
def inOpcodeTable (w : CmdWord) : Bool := opcodeTable.any (·.matches w)

end Sys2Proof.Safety
end

