-- ==== Sys2Proof/Certificates/Slice0/Obligations.lean ====
section
/-! DEFINITION. The statements for the provers. The record of delivered outcomes (`reports`), the transport log
(`transport`), the pending events (`inputs`) and the monitor's record (`seen`) are the model's own fields (assumption
log entries 1 to 4); everything said of the block itself follows the rules named in each docstring. Where the spec marks
such a rule as its own decision or as derived, the statement rests on that decision (92_eei_decisions.md). -/

open Sys2Proof Sys2Proof.Machine Sys2Proof.Safety

/-! ### The CRC16 Engine -/

/-- 40_crc16.md R93: in every phase, an idle block seeds the accumulator with 0x6363, starts accumulating and returns
`()`; nothing else changes. -/
def Obligations.CrcStartSeedsAccumulator : Prop :=
  ∀ s : State, s.xphase = .idle →
    exec .crcStart s = .next
      { s with fcs := some 0x6363, crcPhase := .accumulating, reports := s.reports ++ [.result .unit] }

/-- R94, R24: where `CRC_UPDATE` folds, it folds one byte, leaves `ACCUMULATING` and returns the new register; nothing
else changes. -/
def Obligations.CrcUpdateFoldsOneByte : Prop :=
  ∀ (s : State) (b : Byte) (r : Half), s.xphase = .idle → s.fcs = some r →
    (s.crcPhase = .accumulating ∨ (s.crcPhase = .finalized ∧ s.cfg.postFinalizeUpdate = .fold)) →
    exec (.crcUpdate b) s = .next
      { s with fcs := some (crcStep r b), crcPhase := .accumulating,
               reports := s.reports ++ [.result (.register (crcStep r b))] }

/-- R94, R95, R136: when the two usage faults are raised. Nothing but the record of outcomes changes, and an exchange is
not in progress (the check for `BUSY` comes first, R139). -/
def Obligations.UsageFaultsAreRaisedAndChangeNothing : Prop :=
  (∀ (s : State) (b : Byte), s.xphase = .idle → s.crcPhase = .unseeded →
    exec (.crcUpdate b) s = .next { s with reports := s.reports ++ [.usageFault .crcNotSeeded] }) ∧
  (∀ s : State, s.xphase = .idle → s.crcPhase = .unseeded →
    exec .crcFinalize s = .next { s with reports := s.reports ++ [.usageFault .crcNotSeeded] }) ∧
  (∀ (s : State) (b : Byte), s.xphase = .idle → s.crcPhase = .finalized → s.cfg.postFinalizeUpdate = .fault →
    exec (.crcUpdate b) s = .next { s with reports := s.reports ++ [.usageFault .updateAfterFinalize] })

/-- R95: outside `UNSEEDED`, `CRC_FINALIZE` returns the register's bits 7..0 and 15..8 in that order, changes the phase
alone, and leaves `fcs`. -/
def Obligations.CrcFinalizeReturnsLowThenHigh : Prop :=
  ∀ (s : State) (r : Half), s.xphase = .idle → s.fcs = some r → s.crcPhase ≠ .unseeded →
    ∃ l h : Byte, l.toNat = r.toNat % 256 ∧ h.toNat = r.toNat / 256 ∧
      exec .crcFinalize s = .next
        { s with crcPhase := .finalized, reports := s.reports ++ [.result (.pair l h)] }

/-- R97: in every phase, `CRC_COMPUTE` folds the whole buffer from the seed in one step, ends `FINALIZED`, and returns
the register's two bytes, low first and not inverted (R91); nothing else changes. -/
def Obligations.CrcComputeFoldsFromTheSeed : Prop :=
  ∀ (s : State) (buf : List Byte), s.xphase = .idle →
    ∃ r : Half, r = buf.foldl crcStep 0x6363 ∧ ∃ l h : Byte, l.toNat = r.toNat % 256 ∧ h.toNat = r.toNat / 256 ∧
      exec (.crcCompute buf) s = .next
        { s with fcs := some r, crcPhase := .finalized, reports := s.reports ++ [.result (.pair l h)] }

/-- R99: `CRC_COMPUTE buf` and its expansion end in the same registers and last return the same pair, and the expansion
returns in between `()` and then one register value for each byte. -/
def Obligations.CrcComputeEqualsItsExpansion : Prop :=
  ∀ (s : State) (buf : List Byte), s.xphase = .idle →
    ∃ (t u : State) (v : Report) (vs : List Report),
      exec (.crcCompute buf) s = .next t ∧ execAll (computeExpansion buf) s = .next u ∧
      t.fcs = u.fcs ∧ t.crcPhase = u.crcPhase ∧ t.reports = s.reports ++ [v] ∧
      u.reports = s.reports ++ [.result .unit] ++ vs ++ [v] ∧ vs.length = buf.length ∧
      (∀ k, k < buf.length → vs[k]? = some (.result (.register ((buf.take (k + 1)).foldl crcStep 0x6363))))

/-- R98, in full: the pair returned for a buffer depends on nothing that ran before, for `CRC_COMPUTE` and for
`CRC_START`, `CRC_UPDATE` over the buffer, `CRC_FINALIZE`. -/
def Obligations.CrcOfABufferIsIdempotent : Prop :=
  ∀ buf : List Byte, ∃ l h : Byte, ∀ s : State, s.xphase = .idle →
    (∃ t : State, exec (.crcCompute buf) s = .next t ∧ t.reports = s.reports ++ [.result (.pair l h)]) ∧
    (∃ u : State, execAll (computeExpansion buf) s = .next u ∧ u.reports.getLast? = some (.result (.pair l h)))

/-- R92: the recurrence of R89 is the bitwise reflected CRC with 0x8408, for every register and byte. -/
def Obligations.RecurrenceEqualsBitwiseForm : Prop :=
  ∀ (r : Half) (b : Byte), crcStep r b = crcStepBitwise r b

/-- R90: computed on unbounded naturals the recurrence is in range before its mask, and gives the same register. -/
def Obligations.RecurrenceNeedsNoMoreThanSixteenBits : Prop :=
  ∀ (r : Half) (b : Byte), crcStepNatUnmasked r.toNat b.toNat < 65536 ∧
    crcStepNat r.toNat b.toNat = crcStepNatUnmasked r.toNat b.toNat ∧
    (crcStep r b).toNat = crcStepNat r.toNat b.toNat

/-- R100: folding a sequence and then its two CRC bytes, low first, leaves zero. -/
def Obligations.ResidueOfAClosedSequenceIsZero : Prop :=
  ∀ s : List Byte, crc16 (s ++ [lo (crc16 s), hi (crc16 s)]) = 0x0000

/-- R119, with 92_eei_decisions.md D26 for short sequences: `CrcOk` is the residue test. -/
def Obligations.CrcOkIsTheResidueTest : Prop :=
  (∀ d : List Byte, 2 ≤ d.length → (crcOk d = true ↔ crc16 d = 0x0000)) ∧
  (∀ d : List Byte, d.length < 2 → crcOk d = false)

/-- R101, R156: a second sequence folded without a new seed gives, with no error, the CRC of the concatenation. -/
def Obligations.UnseededSecondSequenceIsConcatenated : Prop :=
  ∀ (s : State) (p q : List Byte), s.xphase = .idle → s.crcPhase = .accumulating → s.fcs = some (crc16 p) →
    ∃ t : State, execAll (q.map Instr.crcUpdate) s = .next t ∧ t.fcs = some (crc16 (p ++ q)) ∧ t.crcPhase = .accumulating ∧
      ∀ r ∈ t.reports.drop s.reports.length, ∃ v, r = .result (.register v)

/-- R88: an operation of the CRC16 Engine is one step that delivers one outcome, makes no transport call, and touches
nothing but `fcs` and `crc_phase`. -/
def Obligations.CrcOperationsAreAtomicAndLocal : Prop :=
  ∀ (i : Instr) (s : State), isCrcOp i = true →
    ∃ (t : State) (r : Report), exec i s = .next t ∧ t.reports = s.reports ++ [r] ∧ t.cfg = s.cfg ∧ t.xphase = s.xphase ∧
      t.xlatch = s.xlatch ∧ t.inputs = s.inputs ∧ t.transport = s.transport ∧ t.seen = s.seen ∧
      (s.xphase ≠ .idle → t.fcs = s.fcs ∧ t.crcPhase = s.crcPhase ∧ r = .refused .busy)

/-- 10_state.md R22, R23: a step other than reset never writes `⊥` to `fcs` and never writes `UNSEEDED`. -/
def Obligations.OnlyResetUnseeds : Prop :=
  ∀ s t : State, step s = .next t → s.inputs.head? ≠ some .reset →
    (s.fcs ≠ none → t.fcs ≠ none) ∧ (s.crcPhase ≠ .unseeded → t.crcPhase ≠ .unseeded)

/-- R153, R93: `fcs` leaves `⊥` only by `CRC_START`, which leaves the seed, or by `CRC_COMPUTE`. -/
def Obligations.OnlyStartOrComputeSeeds : Prop :=
  ∀ (s t : State) (v : Half), step s = .next t → s.fcs = none → t.fcs = some v →
    ∃ (p : Packet) (rest : List Input), s.inputs = .packet p :: rest ∧
      ((decode p = .ok .crcStart ∧ v = 0x6363) ∨ (∃ buf, decode p = .ok (.crcCompute buf) ∧ v = crc16 buf))

/-! ### The protocol operations -/

/-- 42_exchange.md R123, R105: an idle block hands `[52]` to the transport and waits, with nothing to read. -/
def Obligations.KillRfSelectI2cStartsItsExchange : Prop :=
  ∀ s : State, s.xphase = .idle →
    exec .killRfSelectI2c s = .next
      { s with xphase := .waitWrite, xlatch := some ⟨.killRfSelectI2c, none, false⟩,
               transport := s.transport ++ [TransportEvent.write s.cfg.tagAddr [0x52]] }

/-- R124, R106: an idle block hands the select-application frame, closed by its CRC, to the transport and waits, with 5
bytes to read. -/
def Obligations.SelectNfcT4AppStartsItsExchange : Prop :=
  ∀ (s : State) (pcb : Byte) (chk : Bool), s.xphase = .idle →
    ∃ body : List Byte,
      body = [pcb, 0x00, 0xA4, 0x04, 0x00, 0x07, 0xD2, 0x76, 0x00, 0x00, 0x85, 0x01, 0x01, 0x00] ∧
      exec (.selectNfcT4App pcb chk) s = .next
        { s with xphase := .waitWrite, xlatch := some ⟨.selectNfcT4App, some 5, chk⟩,
                 transport := s.transport ++
                   [TransportEvent.write s.cfg.tagAddr (body ++ [lo (crc16 body), hi (crc16 body)])] }

/-- R125, R107: the same for the select-file frame; the identifier goes high byte first. -/
def Obligations.SelectFileStartsItsExchange : Prop :=
  ∀ (s : State) (fileId : Half) (h l pcb : Byte) (chk : Bool), s.xphase = .idle →
    fileId.toNat = h.toNat * 256 + l.toNat →
    ∃ body : List Byte, body = [pcb, 0x00, 0xA4, 0x00, 0x0C, 0x02, h, l] ∧
      exec (.selectFile fileId pcb chk) s = .next
        { s with xphase := .waitWrite, xlatch := some ⟨.selectFile, some 5, chk⟩,
                 transport := s.transport ++
                   [TransportEvent.write s.cfg.tagAddr (body ++ [lo (crc16 body), hi (crc16 body)])] }

/-- R126, R108: the same for the read-binary frame; the offset goes high byte first, and `length + 5` bytes are to be
read, a sum on naturals. -/
def Obligations.ReadBinaryStartsItsExchange : Prop :=
  ∀ (s : State) (offset : Half) (h l length pcb : Byte) (chk : Bool), s.xphase = .idle →
    offset.toNat = h.toNat * 256 + l.toNat →
    ∃ body : List Byte, body = [pcb, 0x00, 0xB0, h, l, length] ∧
      exec (.readBinary offset length pcb chk) s = .next
        { s with xphase := .waitWrite, xlatch := some ⟨.readBinary, some (length.toNat + 5), chk⟩,
                 transport := s.transport ++
                   [TransportEvent.write s.cfg.tagAddr (body ++ [lo (crc16 body), hi (crc16 body)])] }

/-- R127, R109: the same for the deselect frame, a constant; what is to be read is the parameter `DESELECT_READ`. -/
def Obligations.DeselectStartsItsExchange : Prop :=
  ∀ s : State, s.xphase = .idle →
    (s.cfg.deselectRead = .none →
      exec .deselect s = .next
        { s with xphase := .waitWrite, xlatch := some ⟨.deselect, none, false⟩,
                 transport := s.transport ++ [TransportEvent.write s.cfg.tagAddr [0xC2, 0xE0, 0xB4]] }) ∧
    (s.cfg.deselectRead = .zeroLength →
      exec .deselect s = .next
        { s with xphase := .waitWrite, xlatch := some ⟨.deselect, some 0, false⟩,
                 transport := s.transport ++ [TransportEvent.write s.cfg.tagAddr [0xC2, 0xE0, 0xB4]] })

/-- 41_frame_assembly.md R110: the frame an operation hands to the transport is a function of the operation and its
operands alone, whatever the state of the block and whatever ran before. -/
def Obligations.FramesDependOnOperandsAlone : Prop :=
  ∀ i : Instr, isProtocolOp i = true → ∃ f : List Byte, ∀ s : State, s.xphase = .idle →
    ∃ t : State, exec i s = .next t ∧ t.transport = s.transport ++ [TransportEvent.write s.cfg.tagAddr f]

/-- 30_encoding.md R79: the frame of every protocol operation but the kill frame ends in the CRC of exactly the bytes
before it, from a fresh seed, low byte first; the kill frame has no CRC. -/
def Obligations.EveryFrameButKillIsClosedByItsCrc : Prop :=
  ∀ (i : Instr) (s t : State) (addr : Byte) (f : List Byte), isProtocolOp i = true → s.xphase = .idle →
    exec i s = .next t → t.transport = s.transport ++ [TransportEvent.write addr f] →
    (i = .killRfSelectI2c → f = [0x52]) ∧
    (i ≠ .killRfSelectI2c → ∃ (prefixBytes : List Byte) (c0 c1 : Byte), f = prefixBytes ++ [c0, c1] ∧
      c0.toNat = (prefixBytes.foldl crcStep 0x6363).toNat % 256 ∧
      c1.toNat = (prefixBytes.foldl crcStep 0x6363).toNat / 256)

/-- 20_memory.md R49, R50: the CRC goes on the wire low byte first and `CRC_FINALIZE` returns it in the same order; a
file identifier and an offset go high byte first. -/
def Obligations.CrcIsLittleEndianAndOperandsAreBigEndian : Prop :=
  (∀ (v : Half) (pcb : Byte), ∃ h l c0 c1 : Byte,
    frameSelectFile v pcb = [pcb, 0x00, 0xA4, 0x00, 0x0C, 0x02, h, l, c0, c1] ∧
    h.toNat = v.toNat / 256 ∧ l.toNat = v.toNat % 256 ∧
    c0.toNat = (crc16 [pcb, 0x00, 0xA4, 0x00, 0x0C, 0x02, h, l]).toNat % 256 ∧
    c1.toNat = (crc16 [pcb, 0x00, 0xA4, 0x00, 0x0C, 0x02, h, l]).toNat / 256) ∧
  (∀ (v : Half) (length pcb : Byte), ∃ h l c0 c1 : Byte,
    frameReadBinary v length pcb = [pcb, 0x00, 0xB0, h, l, length, c0, c1] ∧
    h.toNat = v.toNat / 256 ∧ l.toNat = v.toNat % 256 ∧
    c0.toNat = (crc16 [pcb, 0x00, 0xB0, h, l, length]).toNat % 256 ∧
    c1.toNat = (crc16 [pcb, 0x00, 0xB0, h, l, length]).toNat / 256) ∧
  (∀ pcb : Byte, ∃ (body : List Byte) (c0 c1 : Byte), frameSelectApp pcb = body ++ [c0, c1] ∧
    c0.toNat = (crc16 body).toNat % 256 ∧ c1.toNat = (crc16 body).toNat / 256) ∧
  (∃ c0 c1 : Byte, frameDeselect = [0xC2, c0, c1] ∧
    c0.toNat = (crc16 [0xC2]).toNat % 256 ∧ c1.toNat = (crc16 [0xC2]).toNat / 256) ∧
  (∀ (s : State) (r : Half), s.xphase = .idle → s.fcs = some r → s.crcPhase ≠ .unseeded →
    ∃ (t : State) (c0 c1 : Byte), exec .crcFinalize s = .next t ∧ t.reports = s.reports ++ [.result (.pair c0 c1)] ∧
      c0.toNat = r.toNat % 256 ∧ c1.toNat = r.toNat / 256)

/-- 41_frame_assembly.md R111: a closed frame folds to zero, and the kill frame does not. -/
def Obligations.ClosedFramesFoldToZero : Prop :=
  (∀ pcb : Byte, crc16 (frameSelectApp pcb) = 0x0000) ∧ (∀ (fileId : Half) (pcb : Byte), crc16 (frameSelectFile fileId pcb) = 0x0000) ∧
  (∀ (offset : Half) (length pcb : Byte), crc16 (frameReadBinary offset length pcb) = 0x0000) ∧ crc16 frameDeselect = 0x0000 ∧
  crc16 frameKill ≠ 0x0000

/-- 40_crc16.md R102: a protocol operation and the answers that finish it neither read nor write `fcs` and `crc_phase`:
whatever those hold, the step is the same and leaves them as they are. -/
def Obligations.ProtocolOperationsDoNotDisturbTheAccumulator : Prop :=
  (∀ (i : Instr) (s t : State) (v : Option Half) (p : CrcPhase), isProtocolOp i = true → exec i s = .next t →
    t.fcs = s.fcs ∧ t.crcPhase = s.crcPhase ∧
    exec i { s with fcs := v, crcPhase := p } = .next { t with fcs := v, crcPhase := p }) ∧
  (∀ (s t : State) (v : Option Half) (p : CrcPhase) (rest : List Input),
    ((∃ st reached, s.inputs = .wrote st reached :: rest) ∨ (∃ st data, s.inputs = .got st data :: rest)) →
    step s = .next t →
    t.fcs = s.fcs ∧ t.crcPhase = s.crcPhase ∧
    step { s with fcs := v, crcPhase := p } = .next { t with fcs := v, crcPhase := p })

/-! ### The exchange -/

/-- R113, R134: what the block does when the transport answers a write: a non-zero status ends the operation with
`TransportError(WRITE, st)`; with status 0 an operation that reads nothing returns `[]`, and any other calls `TRead`. -/
def Obligations.WriteAnswerEndsOrStartsTheRead : Prop :=
  ∀ (s : State) (l : Latch) (st : Int) (reached : Nat) (rest : List Input),
    s.xphase = .waitWrite → s.xlatch = some l → s.inputs = .wrote st reached :: rest →
    (st ≠ 0 → step s = .next
      { s with inputs := rest, xphase := .idle, xlatch := none,
               transport := s.transport ++ [TransportEvent.wrote st reached],
               reports := s.reports ++ [.transportError .write st] }) ∧
    (st = 0 → l.n = none → step s = .next
      { s with inputs := rest, xphase := .idle, xlatch := none,
               transport := s.transport ++ [TransportEvent.wrote 0 reached],
               reports := s.reports ++ [.result (.bytes [])] }) ∧
    (∀ n, st = 0 → l.n = some n → step s = .next
      { s with inputs := rest, xphase := .waitRead,
               transport := s.transport ++ [TransportEvent.wrote 0 reached, TransportEvent.read s.cfg.tagAddr n] })

/-- R113, R117, R118, R139: when the transport answers a read the operation ends, and the outcome is the first of these
that applies: read status, short, long, CRC flag, result. -/
def Obligations.ReadAnswerIsCheckedInOrder : Prop :=
  ∀ (s : State) (op : ProtocolOp) (n : Nat) (chk : Bool) (st : Int) (data : List Byte) (rest : List Input),
    s.xphase = .waitRead → s.xlatch = some ⟨op, some n, chk⟩ → s.inputs = .got st data :: rest →
    ∃ r : Report,
      step s = .next
        { s with inputs := rest, xphase := .idle, xlatch := none, transport := s.transport ++ [TransportEvent.got st data],
                 reports := s.reports ++ [r] } ∧
      (st ≠ 0 → r = .transportError .read st) ∧
      (st = 0 → data.length < n → r = .protocolError .shortResponse data) ∧
      (st = 0 → n < data.length → s.cfg.longResponse = .fault → r = .protocolError .longResponse data) ∧
      (∀ kept, st = 0 →
        (data.length = n ∧ kept = data ∨ n < data.length ∧ s.cfg.longResponse = .acceptPrefix ∧ kept = data.take n) →
        (chk = false → r = .result (.bytes kept)) ∧
        (chk = true → s.cfg.checkCrcMode = .unimplemented → r = .protocolError .crcCheckUnimplemented kept) ∧
        (chk = true → s.cfg.checkCrcMode = .verify → crcOk kept = false → r = .protocolError .crcMismatch kept) ∧
        (chk = true → s.cfg.checkCrcMode = .verify → crcOk kept = true → r = .result (.bytes kept)))

/-- 42_exchange.md R122: with status 0 and the right length every response is returned unchanged as a normal result,
whatever its PCB, data and status bytes; the one other thing that decides is the CRC check, where it was asked for. -/
def Obligations.ResponsesAreReturnedUnread : Prop :=
  ∀ (s : State) (op : ProtocolOp) (chk : Bool) (data : List Byte) (rest : List Input),
    s.xphase = .waitRead → s.xlatch = some ⟨op, some data.length, chk⟩ → s.inputs = .got 0 data :: rest →
    (chk = true → s.cfg.checkCrcMode = .verify ∧ crcOk data = true) →
    ∃ t : State, step s = .next t ∧ t.reports = s.reports ++ [.result (.bytes data)]

/-- R115, R120: a result delivered by a step on a read answer has exactly the bytes asked for, taken unchanged from the
front of the answer. -/
def Obligations.AReturnedResponseHasTheLengthAskedFor : Prop :=
  ∀ (s t : State) (st : Int) (data : List Byte) (rest : List Input) (l : Latch) (n : Nat) (v : Value),
    s.inputs = .got st data :: rest → s.xlatch = some l → l.n = some n → step s = .next t →
    t.reports = s.reports ++ [.result v] →
    st = 0 ∧ ∃ kept, v = .bytes kept ∧ kept.length = n ∧ kept = data.take n

/-- R117: with a conforming transport no length error is ever raised. -/
def Obligations.AConformingTransportRaisesNoLengthError : Prop :=
  ∀ (s t : State) (kind : ProtocolErrorKind) (data : List Byte), TransportConforms s → step s = .next t →
    t.reports = s.reports ++ [.protocolError kind data] → kind = .crcCheckUnimplemented ∨ kind = .crcMismatch

/-- 30_encoding.md R83: the read that follows each operation's successful write asks for 5, 5 and `length + 5` bytes,
and the kill frame is followed by no read; `DESELECT` expects 0 bytes. -/
def Obligations.ExpectedResponseLengths : Prop :=
  ∀ (i : Instr) (s t : State) (reached : Nat) (rest : List Input), isProtocolOp i = true → s.xphase = .idle →
    exec i s = .next t → t.inputs = .wrote 0 reached :: rest →
    ∃ u : State, step t = .next u ∧
      ((∃ (pcb : Byte) (chk : Bool), i = .selectNfcT4App pcb chk) →
        u.transport = t.transport ++ [TransportEvent.wrote 0 reached, TransportEvent.read s.cfg.tagAddr 5]) ∧
      ((∃ (fileId : Half) (pcb : Byte) (chk : Bool), i = .selectFile fileId pcb chk) →
        u.transport = t.transport ++ [TransportEvent.wrote 0 reached, TransportEvent.read s.cfg.tagAddr 5]) ∧
      (∀ (offset : Half) (length pcb : Byte) (chk : Bool), i = .readBinary offset length pcb chk →
        u.transport = t.transport ++ [TransportEvent.wrote 0 reached, TransportEvent.read s.cfg.tagAddr (length.toNat + 5)]) ∧
      (i = .killRfSelectI2c → u.transport = t.transport ++ [TransportEvent.wrote 0 reached] ∧ u.xphase = .idle) ∧
      (i = .deselect → (u.transport = t.transport ++ [TransportEvent.wrote 0 reached] ∧ u.xphase = .idle) ∨
        u.transport = t.transport ++ [TransportEvent.wrote 0 reached, TransportEvent.read s.cfg.tagAddr 0])

/-- R113, R128: a whole exchange, from the command word to the result. An operation that reads, whose write and read
succeed with the right number of bytes, makes one write and one read and returns those bytes: with `chk = 0`, and with
`chk = 1` where `CHECK_CRC_MODE = VERIFY` and the response passes; `DESELECT` reads 0 bytes where
`DESELECT_READ = ZERO_LENGTH`. The kill operation, and `DESELECT` with `DESELECT_READ = NONE`, make one write and return
`[]`. -/
def Obligations.ASuccessfulExchangeReturnsTheResponse : Prop :=
  (∀ (s : State) (i : Instr) (chk : Bool) (data : List Byte) (reached : Nat) (rest : List Input), s.xphase = .idle →
    s.inputs = .packet (encode i) :: .wrote 0 reached :: .got 0 data :: rest →
    (chk = true → s.cfg.checkCrcMode = .verify ∧ crcOk data = true) →
    ((∃ pcb : Byte, i = .selectNfcT4App pcb chk ∧ data.length = 5) ∨
     (∃ (fileId : Half) (pcb : Byte), i = .selectFile fileId pcb chk ∧ data.length = 5) ∨
     (∃ (offset : Half) (length pcb : Byte), i = .readBinary offset length pcb chk ∧
       data.length = length.toNat + 5) ∨
     (i = .deselect ∧ s.cfg.deselectRead = .zeroLength ∧ data.length = 0)) →
    ∃ (f : List Byte) (t : State), exec i s = .next t ∧
      t.transport = s.transport ++ [TransportEvent.write s.cfg.tagAddr f] ∧
      Host.Core.run Sys2Proof.core 3 s = .next
      { s with inputs := rest, xphase := .idle, xlatch := none,
               transport := s.transport ++ [TransportEvent.write s.cfg.tagAddr f, TransportEvent.wrote 0 reached,
                                            TransportEvent.read s.cfg.tagAddr data.length, TransportEvent.got 0 data],
               reports := s.reports ++ [.result (.bytes data)] }) ∧
  (∀ (s : State) (i : Instr) (reached : Nat) (rest : List Input), s.xphase = .idle →
    s.inputs = .packet (encode i) :: .wrote 0 reached :: rest →
    (i = .killRfSelectI2c ∨ (i = .deselect ∧ s.cfg.deselectRead = .none)) →
    ∃ (f : List Byte) (t : State), exec i s = .next t ∧
      t.transport = s.transport ++ [TransportEvent.write s.cfg.tagAddr f] ∧
      Host.Core.run Sys2Proof.core 2 s = .next
      { s with inputs := rest, xphase := .idle, xlatch := none,
               transport := s.transport ++ [TransportEvent.write s.cfg.tagAddr f, TransportEvent.wrote 0 reached],
               reports := s.reports ++ [.result (.bytes [])] })

/-- 20_memory.md R54: when a write fails, for every prefix of the frame there is an answer with that status by whose step
the tag has received exactly that prefix, and no answer makes it receive anything else; when the write succeeds it has
received the whole frame. A failed write tells the caller `TransportError(WRITE, st)`, however much arrived. How much
arrived is a number in the answer (log entry 12). -/
def Obligations.AFailedWriteMayReachTheTagInPart : Prop :=
  ∀ (s : State) (l : Latch) (log : List TransportEvent) (addr : Byte) (f : List Byte) (rest : List Input),
    s.xphase = .waitWrite → s.xlatch = some l → s.transport = log ++ [TransportEvent.write addr f] →
    (∀ (st : Int) (p : List Byte), st ≠ 0 → p <+: f →
      ∃ (reached : Nat) (t : State), step { s with inputs := .wrote st reached :: rest } = .next t ∧
        tagReceived t.transport = tagReceived log ++ [p] ∧ t.reports = s.reports ++ [.transportError .write st]) ∧
    (∀ (st : Int) (reached : Nat), st ≠ 0 →
      ∃ (t : State) (p : List Byte), step { s with inputs := .wrote st reached :: rest } = .next t ∧ p <+: f ∧
        tagReceived t.transport = tagReceived log ++ [p] ∧ t.reports = s.reports ++ [.transportError .write st]) ∧
    (∀ reached : Nat, ∃ t : State, step { s with inputs := .wrote 0 reached :: rest } = .next t ∧
      tagReceived t.transport = tagReceived log ++ [f])

/-! ### Errors, refusals and the hang -/

/-- 60_exceptions.md R138, R140: what an outcome that is an error changes. A refusal and a usage fault change nothing; a
TransportError and a ProtocolError leave the block idle with an empty latch and change nothing else of it; and no
transport call is made: the transport log grows by the failed call's answer alone. -/
def Obligations.ErrorsEndTheExchangeAndMakeNoCall : Prop :=
  ∀ (s t : State) (r : Report), step s = .next t → t.reports = s.reports ++ [r] →
    ((∃ reason, r = .refused reason) ∨ (∃ k, r = .usageFault k) →
      t.fcs = s.fcs ∧ t.crcPhase = s.crcPhase ∧ t.xphase = s.xphase ∧ t.xlatch = s.xlatch ∧
      t.transport = s.transport) ∧
    ((∃ call st, r = .transportError call st) ∨ (∃ kind data, r = .protocolError kind data) →
      t.fcs = s.fcs ∧ t.crcPhase = s.crcPhase ∧ t.xphase = .idle ∧ t.xlatch = none ∧
      ((∃ st reached, t.transport = s.transport ++ [TransportEvent.wrote st reached]) ∨
       (∃ st data, t.transport = s.transport ++ [TransportEvent.got st data])))

/-- 60_exceptions.md R142: while a transport call does not return, the block stays in its wait for good: any number of
steps leaves its registers and the transport log as they are, whatever packets are presented, and reset has no step (log entries
3 and 9). -/
def Obligations.AHungCallIsNeverLeft : Prop :=
  (∀ (k : Nat) (s : State), s.xphase ≠ .idle → (∀ e ∈ s.inputs, ∃ p, e = .packet p) →
    ∃ t : State, Host.Core.run Sys2Proof.core k s = .next t ∧ t.fcs = s.fcs ∧ t.crcPhase = s.crcPhase ∧
      t.xphase = s.xphase ∧ t.xlatch = s.xlatch ∧ t.transport = s.transport) ∧
  (∀ (s : State) (rest : List Input), s.xphase ≠ .idle → s.inputs = .reset :: rest →
    step s = .refused .resetDuringExchange)

/-- 10_state.md R39, R135, R139: during an exchange every command word, also one that would be refused for another
reason, is refused with `BUSY`, and nothing of the block changes. -/
def Obligations.EveryCommandIsBusyDuringAnExchange : Prop :=
  ∀ (s : State) (w : CmdWord) (buf : Option (List Nat)) (rest : List Input), s.xphase ≠ .idle →
    s.inputs = .packet (.command w buf) :: rest →
    step s = .next { s with inputs := rest, reports := s.reports ++ [.refused .busy] }

/-- R133: a command word gets its one outcome in its own step, with no transport call, or starts an exchange. -/
def Obligations.ACommandIsAnsweredOrStartsAnExchange : Prop :=
  ∀ (s : State) (w : CmdWord) (buf : Option (List Nat)) (rest : List Input),
    s.inputs = .packet (.command w buf) :: rest →
    ∃ t : State, step s = .next t ∧
      ((∃ r, t.reports = s.reports ++ [r] ∧ t.transport = s.transport ∧ t.xphase = s.xphase ∧ t.xlatch = s.xlatch) ∨
       (s.xphase = .idle ∧ t.xphase = .waitWrite ∧ t.reports = s.reports ∧
        ∃ i f, decode (.command w buf) = .ok i ∧ isProtocolOp i = true ∧
          t.transport = s.transport ++ [TransportEvent.write s.cfg.tagAddr f]))

/-- R139: each outcome has the cause code of R139's table, and no other outcome has that code. -/
def Obligations.CauseCodesOfOutcomes : Prop :=
  (∀ r : Report, causeCode r = 0x00 ↔ ∃ v, r = .result v) ∧
  (∀ (r : Report), causeCode r = 0x10 ↔ ∃ st, r = .transportError .write st) ∧
  (∀ (r : Report), causeCode r = 0x11 ↔ ∃ st, r = .transportError .read st) ∧
  (∀ (r : Report), causeCode r = 0x20 ↔ ∃ data, r = .protocolError .shortResponse data) ∧
  (∀ (r : Report), causeCode r = 0x21 ↔ ∃ data, r = .protocolError .longResponse data) ∧
  (∀ (r : Report), causeCode r = 0x22 ↔ ∃ data, r = .protocolError .crcCheckUnimplemented data) ∧
  (∀ (r : Report), causeCode r = 0x23 ↔ ∃ data, r = .protocolError .crcMismatch data) ∧
  (∀ (r : Report), causeCode r = 0x30 ↔ r = .usageFault .crcNotSeeded) ∧
  (∀ (r : Report), causeCode r = 0x31 ↔ r = .usageFault .updateAfterFinalize) ∧
  (∀ (r : Report), causeCode r = 0x40 ↔ r = .refused .busy) ∧
  (∀ (r : Report), causeCode r = 0x41 ↔ ∃ w, r = .refused (.reservedOp w)) ∧
  (∀ (r : Report), causeCode r = 0x42 ↔ ∃ w, r = .refused (.reservedField w)) ∧
  (∀ (r : Report), causeCode r = 0x43 ↔ r = .refused .operandShape) ∧
  (∀ (r : Report), causeCode r = 0x44 ↔ r = .refused .operandRange)

/-- R130, R131, R112: the block tracks neither the tag's expected order nor the alternation of the PCB. After any
operations with any answers, in the tag's order or out of it, an idle block builds and sends the frame of the operation
issued next, with the caller's PCB unchanged in byte 0, whatever PCBs went before. -/
def Obligations.OperationsAreAcceptedInEveryOrder : Prop :=
  ∀ (history : List (Instr × List Input)) (start s : State) (i : Instr), performAll history start = .next s →
    s.xphase = .idle → isProtocolOp i = true →
    ∃ (t : State) (f : List Byte), exec i s = .next t ∧ t.xphase = .waitWrite ∧
      t.transport = s.transport ++ [TransportEvent.write s.cfg.tagAddr f] ∧
      (i = .killRfSelectI2c → f = frameKill) ∧
      (∀ (pcb : Byte) (chk : Bool), i = .selectNfcT4App pcb chk → f = frameSelectApp pcb ∧ f.head? = some pcb) ∧
      (∀ (fileId : Half) (pcb : Byte) (chk : Bool), i = .selectFile fileId pcb chk →
        f = frameSelectFile fileId pcb ∧ f.head? = some pcb) ∧
      (∀ (offset : Half) (length pcb : Byte) (chk : Bool), i = .readBinary offset length pcb chk →
        f = frameReadBinary offset length pcb ∧ f.head? = some pcb) ∧
      (i = .deselect → f = frameDeselect)

/-- R156, R157: a caller that seeds before it folds, and seeds again after it finalizes, gets no usage fault. -/
def Obligations.ASeedingCallerGetsNoUsageFault : Prop :=
  ∀ (program : List Instr) (s : State), s.xphase = .idle → (s.fcs = none ↔ s.crcPhase = .unseeded) →
    (∀ i ∈ program, isCrcOp i = true) → seedsBeforeFolding s.crcPhase program = true →
    ∃ t : State, execAll program s = .next t ∧ ∀ r ∈ t.reports.drop s.reports.length, ∃ v, r = .result v

/-! ### Encoding -/

/-- R69: which words are refused, for which reason and in which order, and what the others mean. The fields are read here
from the word's value: `op = CW mod 16`, `chk = CW / 2^4 mod 2`, and so on. Two clauses are the model's reading: that a
reserved code decodes to a reserved row of the table, whose effect is the refusal (log entry 11, DEDUCED), and that
`OPERAND_RANGE` comes after all of R69's checks (log entry 10, DEDUCED from the order of R139's table). -/
def Obligations.CommandWordsAreCheckedInOrder : Prop :=
  ∀ (w : CmdWord) (buf : Option (List Nat)) (op chk rsv a8 a16 len : Nat),
    w.toNat = op + 2 ^ 4 * chk + 2 ^ 5 * rsv + 2 ^ 8 * a8 + 2 ^ 16 * a16 + 2 ^ 32 * len →
    op < 16 → chk < 2 → rsv < 8 → a8 < 256 → a16 < 65536 → len < 256 →
    (9 ≤ op → ∃ i, decode (.command w buf) = .ok i ∧ isReserved i = true) ∧
    (op < 9 → rsv ≠ 0 → decode (.command w buf) = .error (.refused (.reservedField w))) ∧
    (op < 9 → rsv = 0 →
      ((a8 ≠ 0 ∧ op ∉ [1, 5, 6, 7]) ∨ (a16 ≠ 0 ∧ op ∉ [6, 7]) ∨ (len ≠ 0 ∧ op ≠ 7) ∨ (chk = 1 ∧ op ∉ [5, 6, 7])) →
      decode (.command w buf) = .error (.refused (.reservedField w))) ∧
    (op < 9 → rsv = 0 → (a8 ≠ 0 → op ∈ [1, 5, 6, 7]) → (a16 ≠ 0 → op ∈ [6, 7]) → (len ≠ 0 → op = 7) →
      (chk = 1 → op ∈ [5, 6, 7]) →
      (¬ (op = 3 ↔ buf.isSome = true) → decode (.command w buf) = .error (.refused .operandShape)) ∧
      (∀ l, op = 3 → buf = some l → (∃ x ∈ l, 256 ≤ x) → decode (.command w buf) = .error (.refused .operandRange)) ∧
      (∀ l : List Byte, op = 3 → buf = some (l.map BitVec.toNat) → decode (.command w buf) = .ok (.crcCompute l)) ∧
      (buf = none →
        (op = 0 → decode (.command w buf) = .ok .crcStart) ∧
        (op = 1 → decode (.command w buf) = .ok (.crcUpdate (BitVec.ofNat 8 a8))) ∧
        (op = 2 → decode (.command w buf) = .ok .crcFinalize) ∧
        (op = 4 → decode (.command w buf) = .ok .killRfSelectI2c) ∧
        (op = 5 → decode (.command w buf) = .ok (.selectNfcT4App (BitVec.ofNat 8 a8) (decide (chk = 1)))) ∧
        (op = 6 → decode (.command w buf) =
          .ok (.selectFile (BitVec.ofNat 16 a16) (BitVec.ofNat 8 a8) (decide (chk = 1)))) ∧
        (op = 7 → decode (.command w buf) =
          .ok (.readBinary (BitVec.ofNat 16 a16) (BitVec.ofNat 8 len) (BitVec.ofNat 8 a8) (decide (chk = 1)))) ∧
        (op = 8 → decode (.command w buf) = .ok .deselect)))

/-- R135: a word that an idle block refuses has no effect but that the caller is told the reason. -/
def Obligations.ARefusedWordOnlyTellsTheReason : Prop :=
  ∀ (s : State) (w : CmdWord) (buf : Option (List Nat)) (rest : List Input) (reason : RefusalReason),
    s.xphase = .idle → s.inputs = .packet (.command w buf) :: rest →
    decode (.command w buf) = .error (.refused reason) →
    step s = .next { s with inputs := rest, reports := s.reports ++ [.refused reason] }

/-- R68, R69, R135: the effect of the three reserved rows is the refusal that records the word, whether or not a `buf`
stands beside it (log entry 11, DEDUCED). -/
def Obligations.ReservedCodesAreRefusedWithTheirWord : Prop :=
  (∀ (i : Instr) (s : State), isReserved i = true → s.xphase = .idle →
    ∃ w : CmdWord, encode i = .command w none ∧ 9 ≤ w.toNat % 16 ∧
      exec i s = .next { s with reports := s.reports ++ [.refused (.reservedOp w)] }) ∧
  (∀ (s : State) (w : CmdWord) (buf : Option (List Nat)) (rest : List Input), s.xphase = .idle →
    s.inputs = .packet (.command w buf) :: rest → 9 ≤ w.toNat % 16 →
    step s = .next { s with inputs := rest, reports := s.reports ++ [.refused (.reservedOp w)] })

/-- Decoding undoes encoding, for every instruction with every operand (R62 to R87). That reserved words and captured
frames decode is log entries 11 (DEDUCED) and 4 (DESIGN CHOICE). -/
def Obligations.DecodeOfEncode : Prop :=
  ∀ i : Instr, decode (encode i) = .ok i

/-- Encoding undoes decoding: a packet that decodes is the encoding of what it decodes to, but for a `buf` beside a
reserved code, which R69 does not look at (log entry 11, DEDUCED). -/
def Obligations.EncodeOfDecode : Prop :=
  ∀ (p : Packet) (i : Instr), decode p = .ok i →
    encode i = p ∨
    (isReserved i = true ∧ ∃ w buf, p = .command w (some buf) ∧ encode i = .command w none)

/-- A command word, with the empty `buf` beside it where `op` is `CRC_COMPUTE`, decodes to an instruction exactly when
it is of one of the twelve rows of spec/opcode_table.json. Two
things are the model's: that a word with a reserved code decodes, to its row of the table, whose effect is the refusal
R69 gives it (log entry 11, DEDUCED), and the `buf` set beside the word (log entry 14, DESIGN CHOICE). -/
def Obligations.DecodableWordsAreThoseOfTheOpcodeTable : Prop :=
  ∀ w : CmdWord, (∃ i, decode (.command w (tableBuf w)) = .ok i) ↔ inOpcodeTable w = true

/-- R85 to R87: every line assembles to a packet that decodes to the line's instruction, a pseudo-operation stands for
what its expansion stands for, and the word is the sum of its shifted fields. -/
def Obligations.AssemblyLinesAssembleToTheirInstructions : Prop :=
  (∀ line : AsmLine, decode line.packet = .ok line.instr ∧ line.expand.instr = line.instr) ∧
  (∀ (op : BitVec 4) (chk : Bool) (a8 : Byte) (a16 : Half) (len : Byte),
    (assemble op chk a8 a16 len).toNat =
      op.toNat + 2 ^ 4 * chk.toNat + 2 ^ 8 * a8.toNat + 2 ^ 16 * a16.toNat + 2 ^ 32 * len.toNat)

/-- Words written out from R62 and R68, and frames from R72 to R77, with what they decode to: a check of a few words.
That the reserved word 0x00000000E9, which Q3 gives as refused with `RESERVED_OP`, decodes to its row of the table, whose
effect is that refusal, is log entry 11 (DEDUCED), and that a captured frame decodes is log entry 4 (DESIGN CHOICE). -/
def Obligations.WordsWrittenOutFromTheSpecDecode : Prop :=
  decode (.command 0x0000000000 none) = .ok .crcStart ∧
  decode (.command 0x0000000201 none) = .ok (.crcUpdate 0x02) ∧
  decode (.command 0x0000000003 (some [0xC2])) = .ok (.crcCompute [0xC2]) ∧
  decode (.command 0x0000000215 none) = .ok (.selectNfcT4App 0x02 true) ∧
  decode (.command 0x00E1030306 none) = .ok (.selectFile 0xE103 0x03 false) ∧
  decode (.command 0x1400020207 none) = .ok (.readBinary 0x0002 0x14 0x02 false) ∧
  decode (.command 0x00000000E9 none) = .ok (.reservedOp9 0xE) ∧
  decode (.frame [0xC2, 0xE0, 0xB4]) = .ok .frameDeselect ∧
  decode (.frame [0x03, 0x00, 0xA4, 0x00, 0x0C, 0x02, 0xE1, 0x03, 0xD2, 0xAF]) =
    .ok (.frameSelectFile 0x03 0xE103 0xD2 0xAF)

/-- R81, R82: `classify` names the operation and the operands of each of the five frames the assembler builds, answers
`NOT_A_BLOCK_FRAME` for every other sequence, and no instruction makes the block write such a sequence. -/
def Obligations.TheBlockWritesOnlyItsFiveFrames : Prop :=
  (classify frameKill = .killRfSelectI2c ∧ classify frameDeselect = .deselect ∧
    (∀ pcb : Byte, classify (frameSelectApp pcb) = .selectNfcT4App pcb) ∧
    (∀ (fileId : Half) (pcb : Byte), classify (frameSelectFile fileId pcb) = .selectFile pcb fileId) ∧
    (∀ (offset : Half) (length pcb : Byte), classify (frameReadBinary offset length pcb) = .readBinary pcb offset length)) ∧
  (∀ f : List Byte, f ≠ frameKill → f ≠ frameDeselect → (∀ pcb : Byte, f ≠ frameSelectApp pcb) →
    (∀ (fileId : Half) (pcb : Byte), f ≠ frameSelectFile fileId pcb) → (∀ (offset : Half) (length pcb : Byte), f ≠ frameReadBinary offset length pcb) →
    classify f = .notABlockFrame) ∧
  (∀ (s t : State) (addr : Byte) (f : List Byte), step s = .next t → t.transport = s.transport ++ [TransportEvent.write addr f] →
    classify f ≠ .notABlockFrame)

/-- R81, for the five wire-frame rows as captured frames: the monitor names the operation when the CRC field closes the
frame and answers `NOT_A_BLOCK_FRAME` when it does not; every captured sequence is classified; nothing of the block
changes, in any `xphase` (log entry 4). -/
def Obligations.TheMonitorClassifiesCapturedFrames : Prop :=
  (∀ s : State, exec .frameKillRfSelectI2c s = .next { s with seen := s.seen ++ [.killRfSelectI2c] }) ∧
  (∀ s : State, exec .frameDeselect s = .next { s with seen := s.seen ++ [.deselect] }) ∧
  (∀ (s : State) (pcb c0 c1 : Byte), ∃ body : List Byte,
    body = [pcb, 0x00, 0xA4, 0x04, 0x00, 0x07, 0xD2, 0x76, 0x00, 0x00, 0x85, 0x01, 0x01, 0x00] ∧
    exec (.frameSelectNfcT4App pcb c0 c1) s = .next
      { s with seen := s.seen ++
          [if c0 = lo (crc16 body) ∧ c1 = hi (crc16 body) then .selectNfcT4App pcb else .notABlockFrame] }) ∧
  (∀ (s : State) (pcb : Byte) (fileId : Half) (c0 c1 : Byte), ∃ body : List Byte,
    body = [pcb, 0x00, 0xA4, 0x00, 0x0C, 0x02, hi fileId, lo fileId] ∧
    exec (.frameSelectFile pcb fileId c0 c1) s = .next
      { s with seen := s.seen ++
          [if c0 = lo (crc16 body) ∧ c1 = hi (crc16 body) then .selectFile pcb fileId else .notABlockFrame] }) ∧
  (∀ (s : State) (pcb : Byte) (offset : Half) (length c0 c1 : Byte), ∃ body : List Byte,
    body = [pcb, 0x00, 0xB0, hi offset, lo offset, length] ∧
    exec (.frameReadBinary pcb offset length c0 c1) s = .next
      { s with seen := s.seen ++
          [if c0 = lo (crc16 body) ∧ c1 = hi (crc16 body) then .readBinary pcb offset length
           else .notABlockFrame] }) ∧
  (∀ (s : State) (bytes : List Byte) (rest : List Input), s.inputs = .packet (.frame bytes) :: rest →
    step s = .next { s with inputs := rest, seen := s.seen ++ [classify bytes] })

/-- R84, R121 (92_eei_decisions.md D19): the views take a response of 5 or more bytes apart with nothing left over. -/
def Obligations.ResponseViewsPartitionTheResponse : Prop :=
  ∀ r : List Byte, 5 ≤ r.length →
    r = respPcb r :: (respData r ++ [(respSw r).1, (respSw r).2, (respCrc r).1, (respCrc r).2]) ∧
    (respData r).length = r.length - 5

/-! ### The machine -/

/-- A step whose next packet decodes to an instruction is that instruction's effect, the packet taken; so is the step
after a table row's bits are placed to come next (log entries 14 and 15). -/
def Obligations.AStepRunsTheDecodedInstruction : Prop :=
  (∀ (s : State) (p : Packet) (rest : List Input) (i : Instr), s.inputs = .packet p :: rest → decode p = .ok i →
    step s = exec i { s with inputs := rest }) ∧
  (∀ (s : State) (nbits w : Nat) (i : Instr), decodeTableWord nbits w = some i →
    step (s.withFetchWord nbits w) = exec i s)

/-- R40, R151 to R153: the registers after reset, and reset as an event: in an idle block it gives those values and keeps
the parameters; during an exchange it has no step. 0x6363 is not the reset value. -/
def Obligations.ResetLeavesTheAccumulatorWithoutAValue : Prop :=
  (State.reset.fcs = none ∧ State.reset.crcPhase = .unseeded ∧ State.reset.xphase = .idle ∧
    State.reset.xlatch = none) ∧
  (∀ (s : State) (rest : List Input), s.inputs = .reset :: rest → s.xphase = .idle →
    step s = .next { s with inputs := rest, fcs := none, crcPhase := .unseeded, xphase := .idle, xlatch := none }) ∧
  (∀ (s : State) (rest : List Input), s.inputs = .reset :: rest → s.xphase ≠ .idle →
    step s = .refused .resetDuringExchange)

/-- The reset state meets the register invariant and its empty transport log is a legal conversation, for whatever
parameters, and whatever is pending. -/
def Obligations.ResetStateMeetsTheInvariants : Prop :=
  ∀ (cfg : Params) (inputs : List Input),
    Inv { State.reset with cfg := cfg, inputs := inputs } ∧ Conversation { State.reset with cfg := cfg, inputs := inputs }

/-- R22, R23, R31, R116: every step keeps the invariant of the registers. -/
def Obligations.EveryStepKeepsTheRegisterInvariant : Prop :=
  ∀ s t : State, Inv s → step s = .next t → Inv t

/-- R57, R82, R116, R128, R129: every step keeps the transport log a legal conversation. -/
def Obligations.EveryStepKeepsTheConversationLegal : Prop :=
  ∀ s t : State, Conversation s → step s = .next t → Conversation t

/-- With the register invariant the machine stops only where the rules give no step: an answer with no call outstanding,
and reset during an exchange. A packet never stops it, and with nothing pending it stays as it is (log entries 3, 8, 9). -/
def Obligations.OnlyImpossibleEventsStopTheMachine : Prop :=
  (∀ s : State, Inv s → step s ≠ .fault .latchCorrupt) ∧
  (∀ (s : State) (p : Packet) (rest : List Input), s.inputs = .packet p :: rest → ∃ t : State, step s = .next t) ∧
  (∀ (s : State) (st : Int) (reached : Nat) (rest : List Input), Inv s → s.inputs = .wrote st reached :: rest →
    ((∃ t : State, step s = .next t) ↔ s.xphase = .waitWrite)) ∧
  (∀ (s : State) (st : Int) (data : List Byte) (rest : List Input), Inv s → s.inputs = .got st data :: rest →
    ((∃ t : State, step s = .next t) ↔ s.xphase = .waitRead)) ∧
  (∀ (s : State) (rest : List Input), s.inputs = .reset :: rest →
    ((∃ t : State, step s = .next t) ↔ s.xphase = .idle)) ∧
  (∀ s : State, s.inputs = [] → step s = .next s)

/-- R10: no step changes a parameter. -/
def Obligations.ParametersNeverChange : Prop :=
  ∀ s t : State, step s = .next t → t.cfg = s.cfg

/-- R142 with R135: a hang is neither an error nor a result. However many steps are taken while a transport call does not
return, whatever packets are presented, the caller of the hung operation is told nothing: every outcome delivered is the
refusal `BUSY` of another command word (log entry 3). -/
def Obligations.AHangDeliversNoOutcome : Prop :=
  ∀ (k : Nat) (s : State), s.xphase ≠ .idle → (∀ e ∈ s.inputs, ∃ p, e = .packet p) →
    ∃ (t : State) (told : List Report), Host.Core.run Sys2Proof.core k s = .next t ∧
      t.reports = s.reports ++ told ∧ told.length ≤ s.inputs.length ∧ ∀ r ∈ told, r = .refused .busy
end

