-- ==== Sys2Proof/Laws/Crc.lean ====
section
/-! SUPPORT. Small lemmas of the CRC functions (40_crc16.md) and of the frames. -/

namespace Sys2Proof.Machine

@[simp] theorem crcFold_nil (r : Half) : crcFold r [] = r := rfl
@[simp] theorem crcFold_cons (r : Half) (b : Byte) (s : List Byte) : crcFold r (b :: s) = crcFold (crcStep r b) s := rfl

theorem crcFold_append (r : Half) (s t : List Byte) : crcFold r (s ++ t) = crcFold (crcFold r s) t :=
  List.foldl_append

theorem crc16_eq_fold (s : List Byte) : crc16 s = crcFold 0x6363 s := rfl

/-- The corner case of R94: the byte equal to the register's low byte is absorbed with `x = 0`. -/
theorem crcStep_lo (r : Half) : crcStep r (lo r) = r >>> 8 := by
  have h : BitVec.setWidth 16 (lo r) ^^^ (r &&& 0x00FF#16) = 0#16 := by
    apply BitVec.eq_of_getLsbD_eq
    intro i hi
    have : ∀ j < 16, (0x00FF#16).getLsbD j = decide (j < 8) := by decide
    simp only [lo, BitVec.getLsbD_xor, BitVec.getLsbD_setWidth, BitVec.getLsbD_extractLsb', BitVec.getLsbD_and,
      this i hi, BitVec.getLsbD_zero, hi]
    by_cases h8 : i < 8 <;> simp [h8]
  have hm : ∀ v : Half, v &&& 0xFFFF#16 = v := fun v => BitVec.and_allOnes
  simp [crcStep, h, hm]

@[simp] theorem crcBytes_length (s : List Byte) : (crcBytes s).length = 2 := rfl

@[simp] theorem close_length (s : List Byte) : (close s).length = s.length + 2 := by simp [close]

theorem getLsbD_join (h l : Byte) (i : Nat) :
    (join h l).getLsbD i = if i < 8 then l.getLsbD i else h.getLsbD (i - 8) := BitVec.getLsbD_append

/-- A 16-bit value is the join of its two bytes (R50). -/
@[simp] theorem join_hi_lo (v : Half) : join (hi v) (lo v) = v := by
  apply BitVec.eq_of_getLsbD_eq
  intro i h16
  rw [getLsbD_join]
  by_cases h : i < 8
  · simp [lo, h]
  · have h8 : i - 8 < 8 := by omega
    have : 8 + (i - 8) = i := by omega
    simp [hi, h, h8, this]

@[simp] theorem hi_join (h l : Byte) : hi (join h l) = h := by
  apply BitVec.eq_of_getLsbD_eq
  intro i h8
  rw [hi, BitVec.getLsbD_extractLsb', getLsbD_join]
  simp [h8]

@[simp] theorem lo_join (h l : Byte) : lo (join h l) = l := by
  apply BitVec.eq_of_getLsbD_eq
  intro i h8
  rw [lo, BitVec.getLsbD_extractLsb', getLsbD_join]
  simp [h8]

end Sys2Proof.Machine
end

