-- ==== Sys2Proof/Laws/Encoding.lean ====
section
/-! SUPPORT. The fields of an assembled command word are the fields it was assembled from (30_encoding.md R62, R86). -/

namespace Sys2Proof

theorem getLsbD_assemble (op : BitVec 4) (chk : Bool) (a8 : Byte) (a16 : Half) (len : Byte) (i : Nat) (h : i < 40) :
    (assemble op chk a8 a16 len).getLsbD i =
      if i < 4 then op.getLsbD i else if i < 5 then chk else if i < 8 then false
      else if i < 16 then a8.getLsbD (i - 8) else if i < 32 then a16.getLsbD (i - 16) else len.getLsbD (i - 32) := by
  have hb : ∀ {n : Nat} (v : BitVec n) (j : Nat), n ≤ j → v.getLsbD j = false := fun v j hj => BitVec.getLsbD_of_ge v j hj
  have hc : ∀ j : Nat, 1 ≤ j → (BitVec.ofBool chk).getLsbD j = false := fun j hj => BitVec.getLsbD_of_ge _ j hj
  simp only [assemble, BitVec.getLsbD_or, BitVec.getLsbD_shiftLeft, BitVec.getLsbD_setWidth, h, decide_true, Bool.true_and]
  split
  · next h4 => simp [show i < 32 by omega, show i < 16 by omega, show i < 8 by omega, h4]
  split
  · next h4 h5 =>
    obtain rfl : i = 4 := by omega
    simp
  split
  · next h4 h5 h8 =>
    simp [show i < 32 by omega, show i < 16 by omega, h8, h4, hb op i (by omega), hc (i - 4) (by omega)]
  split
  · next h4 h5 h8 h16 =>
    simp [show i < 32 by omega, h16, h8, h4, show i - 8 < 40 by omega, hb op i (by omega), hc (i - 4) (by omega)]
  split
  · next h4 h5 h8 h16 h32 =>
    simp [h32, h16, h8, h4, show i - 16 < 40 by omega, hb op i (by omega), hc (i - 4) (by omega),
      hb a8 (i - 8) (by omega)]
  · next h4 h5 h8 h16 h32 =>
    simp [h32, h16, h8, h4, show i - 32 < 40 by omega, hb op i (by omega), hc (i - 4) (by omega),
      hb a8 (i - 8) (by omega), hb a16 (i - 16) (by omega)]

/-- A mask acts on the fields of an assembled word one by one. -/
theorem assemble_and (op : BitVec 4) (chk : Bool) (a8 : Byte) (a16 : Half) (len : Byte) (m : CmdWord) :
    assemble op chk a8 a16 len &&& m =
      assemble (op &&& opField m) (chk && chkField m) (a8 &&& a8Field m) (a16 &&& a16Field m) (len &&& lenField m) := by
  apply BitVec.eq_of_getLsbD_eq
  intro i hi
  rw [BitVec.getLsbD_and, getLsbD_assemble _ _ _ _ _ i hi, getLsbD_assemble _ _ _ _ _ i hi]
  split
  · next h => simp [opField, h]
  split
  · next h4 h5 =>
    obtain rfl : i = 4 := by omega
    simp [chkField]
  split
  · simp
  split
  · next h8 h16 => simp [a8Field, show i - 8 < 8 by omega, show 8 + (i - 8) = i by omega]
  split
  · next h16 h32 => simp [a16Field, show i - 16 < 16 by omega, show 16 + (i - 16) = i by omega]
  · next h32 => simp [lenField, show i - 32 < 8 by omega, show 32 + (i - 32) = i by omega]

variable (op : BitVec 4) (chk : Bool) (a8 : Byte) (a16 : Half) (len : Byte)

@[simp] theorem opField_assemble : opField (assemble op chk a8 a16 len) = op := by
  apply BitVec.eq_of_getLsbD_eq
  intro i hi
  simp [opField, getLsbD_assemble op chk a8 a16 len i (by omega), hi]

@[simp] theorem chkField_assemble : chkField (assemble op chk a8 a16 len) = chk := by
  rw [chkField, getLsbD_assemble op chk a8 a16 len 4 (by omega)]
  simp

@[simp] theorem rsvField_assemble : rsvField (assemble op chk a8 a16 len) = 0 := by
  apply BitVec.eq_of_getLsbD_eq
  intro i hi
  simp [rsvField, getLsbD_assemble op chk a8 a16 len (5 + i) (by omega), hi, show ¬ 5 + i < 4 by omega,
    show ¬ 5 + i < 5 by omega, show 5 + i < 8 by omega]

@[simp] theorem a8Field_assemble : a8Field (assemble op chk a8 a16 len) = a8 := by
  apply BitVec.eq_of_getLsbD_eq
  intro i hi
  simp [a8Field, getLsbD_assemble op chk a8 a16 len (8 + i) (by omega), hi, show ¬ 8 + i < 4 by omega,
    show ¬ 8 + i < 5 by omega, show 8 + i < 16 by omega]

@[simp] theorem a16Field_assemble : a16Field (assemble op chk a8 a16 len) = a16 := by
  apply BitVec.eq_of_getLsbD_eq
  intro i hi
  simp [a16Field, getLsbD_assemble op chk a8 a16 len (16 + i) (by omega), hi, show ¬ 16 + i < 4 by omega,
    show ¬ 16 + i < 5 by omega, show ¬ 16 + i < 8 by omega, show 16 + i < 32 by omega]

@[simp] theorem lenField_assemble : lenField (assemble op chk a8 a16 len) = len := by
  apply BitVec.eq_of_getLsbD_eq
  intro i hi
  simp [lenField, getLsbD_assemble op chk a8 a16 len (32 + i) (by omega), hi, show ¬ 32 + i < 4 by omega,
    show ¬ 32 + i < 5 by omega, show ¬ 32 + i < 8 by omega, show ¬ 32 + i < 16 by omega]

end Sys2Proof
end

