-- ==== Sys2Proof/Laws/State.lean ====
section
/-! SUPPORT. One lemma per field per update of the state. -/

namespace Sys2Proof.Machine

@[simp] theorem State.setCrc_cfg (s : State) (v : Half) (p : CrcPhase) : (s.setCrc v p).cfg = s.cfg := rfl
@[simp] theorem State.setCrc_fcs (s : State) (v : Half) (p : CrcPhase) : (s.setCrc v p).fcs = some v := rfl
@[simp] theorem State.setCrc_crcPhase (s : State) (v : Half) (p : CrcPhase) : (s.setCrc v p).crcPhase = p := rfl
@[simp] theorem State.setCrc_xphase (s : State) (v : Half) (p : CrcPhase) : (s.setCrc v p).xphase = s.xphase := rfl
@[simp] theorem State.setCrc_xlatch (s : State) (v : Half) (p : CrcPhase) : (s.setCrc v p).xlatch = s.xlatch := rfl
@[simp] theorem State.setCrc_inputs (s : State) (v : Half) (p : CrcPhase) : (s.setCrc v p).inputs = s.inputs := rfl
@[simp] theorem State.setCrc_transport (s : State) (v : Half) (p : CrcPhase) : (s.setCrc v p).transport = s.transport := rfl
@[simp] theorem State.setCrc_reports (s : State) (v : Half) (p : CrcPhase) : (s.setCrc v p).reports = s.reports := rfl
@[simp] theorem State.setCrc_seen (s : State) (v : Half) (p : CrcPhase) : (s.setCrc v p).seen = s.seen := rfl

@[simp] theorem State.setCrcPhase_cfg (s : State) (p : CrcPhase) : (s.setCrcPhase p).cfg = s.cfg := rfl
@[simp] theorem State.setCrcPhase_fcs (s : State) (p : CrcPhase) : (s.setCrcPhase p).fcs = s.fcs := rfl
@[simp] theorem State.setCrcPhase_crcPhase (s : State) (p : CrcPhase) : (s.setCrcPhase p).crcPhase = p := rfl
@[simp] theorem State.setCrcPhase_xphase (s : State) (p : CrcPhase) : (s.setCrcPhase p).xphase = s.xphase := rfl
@[simp] theorem State.setCrcPhase_xlatch (s : State) (p : CrcPhase) : (s.setCrcPhase p).xlatch = s.xlatch := rfl
@[simp] theorem State.setCrcPhase_inputs (s : State) (p : CrcPhase) : (s.setCrcPhase p).inputs = s.inputs := rfl
@[simp] theorem State.setCrcPhase_transport (s : State) (p : CrcPhase) : (s.setCrcPhase p).transport = s.transport := rfl
@[simp] theorem State.setCrcPhase_reports (s : State) (p : CrcPhase) : (s.setCrcPhase p).reports = s.reports := rfl
@[simp] theorem State.setCrcPhase_seen (s : State) (p : CrcPhase) : (s.setCrcPhase p).seen = s.seen := rfl

@[simp] theorem State.deliver_cfg (s : State) (r : Report) : (s.deliver r).cfg = s.cfg := rfl
@[simp] theorem State.deliver_fcs (s : State) (r : Report) : (s.deliver r).fcs = s.fcs := rfl
@[simp] theorem State.deliver_crcPhase (s : State) (r : Report) : (s.deliver r).crcPhase = s.crcPhase := rfl
@[simp] theorem State.deliver_xphase (s : State) (r : Report) : (s.deliver r).xphase = s.xphase := rfl
@[simp] theorem State.deliver_xlatch (s : State) (r : Report) : (s.deliver r).xlatch = s.xlatch := rfl
@[simp] theorem State.deliver_inputs (s : State) (r : Report) : (s.deliver r).inputs = s.inputs := rfl
@[simp] theorem State.deliver_transport (s : State) (r : Report) : (s.deliver r).transport = s.transport := rfl
@[simp] theorem State.deliver_reports (s : State) (r : Report) : (s.deliver r).reports = s.reports ++ [r] := rfl
@[simp] theorem State.deliver_seen (s : State) (r : Report) : (s.deliver r).seen = s.seen := rfl

@[simp] theorem State.record_cfg (s : State) (e : TransportEvent) : (s.record e).cfg = s.cfg := rfl
@[simp] theorem State.record_fcs (s : State) (e : TransportEvent) : (s.record e).fcs = s.fcs := rfl
@[simp] theorem State.record_crcPhase (s : State) (e : TransportEvent) : (s.record e).crcPhase = s.crcPhase := rfl
@[simp] theorem State.record_xphase (s : State) (e : TransportEvent) : (s.record e).xphase = s.xphase := rfl
@[simp] theorem State.record_xlatch (s : State) (e : TransportEvent) : (s.record e).xlatch = s.xlatch := rfl
@[simp] theorem State.record_inputs (s : State) (e : TransportEvent) : (s.record e).inputs = s.inputs := rfl
@[simp] theorem State.record_transport (s : State) (e : TransportEvent) : (s.record e).transport = s.transport ++ [e] := rfl
@[simp] theorem State.record_reports (s : State) (e : TransportEvent) : (s.record e).reports = s.reports := rfl
@[simp] theorem State.record_seen (s : State) (e : TransportEvent) : (s.record e).seen = s.seen := rfl

@[simp] theorem State.endExchange_cfg (s : State) : (s.endExchange).cfg = s.cfg := rfl
@[simp] theorem State.endExchange_fcs (s : State) : (s.endExchange).fcs = s.fcs := rfl
@[simp] theorem State.endExchange_crcPhase (s : State) : (s.endExchange).crcPhase = s.crcPhase := rfl
@[simp] theorem State.endExchange_xphase (s : State) : (s.endExchange).xphase = .idle := rfl
@[simp] theorem State.endExchange_xlatch (s : State) : (s.endExchange).xlatch = none := rfl
@[simp] theorem State.endExchange_inputs (s : State) : (s.endExchange).inputs = s.inputs := rfl
@[simp] theorem State.endExchange_transport (s : State) : (s.endExchange).transport = s.transport := rfl
@[simp] theorem State.endExchange_reports (s : State) : (s.endExchange).reports = s.reports := rfl
@[simp] theorem State.endExchange_seen (s : State) : (s.endExchange).seen = s.seen := rfl

@[simp] theorem State.beginExchange_cfg (s : State) (l : Latch) (f : List Byte) : (s.beginExchange l f).cfg = s.cfg := rfl
@[simp] theorem State.beginExchange_fcs (s : State) (l : Latch) (f : List Byte) : (s.beginExchange l f).fcs = s.fcs := rfl
@[simp] theorem State.beginExchange_crcPhase (s : State) (l : Latch) (f : List Byte) : (s.beginExchange l f).crcPhase = s.crcPhase := rfl
@[simp] theorem State.beginExchange_xphase (s : State) (l : Latch) (f : List Byte) : (s.beginExchange l f).xphase = .waitWrite := rfl
@[simp] theorem State.beginExchange_xlatch (s : State) (l : Latch) (f : List Byte) : (s.beginExchange l f).xlatch = some l := rfl
@[simp] theorem State.beginExchange_inputs (s : State) (l : Latch) (f : List Byte) : (s.beginExchange l f).inputs = s.inputs := rfl
@[simp] theorem State.beginExchange_transport (s : State) (l : Latch) (f : List Byte) : (s.beginExchange l f).transport = s.transport ++ [TransportEvent.write s.cfg.tagAddr f] := rfl
@[simp] theorem State.beginExchange_reports (s : State) (l : Latch) (f : List Byte) : (s.beginExchange l f).reports = s.reports := rfl
@[simp] theorem State.beginExchange_seen (s : State) (l : Latch) (f : List Byte) : (s.beginExchange l f).seen = s.seen := rfl

@[simp] theorem State.beginRead_cfg (s : State) (n : Nat) : (s.beginRead n).cfg = s.cfg := rfl
@[simp] theorem State.beginRead_fcs (s : State) (n : Nat) : (s.beginRead n).fcs = s.fcs := rfl
@[simp] theorem State.beginRead_crcPhase (s : State) (n : Nat) : (s.beginRead n).crcPhase = s.crcPhase := rfl
@[simp] theorem State.beginRead_xphase (s : State) (n : Nat) : (s.beginRead n).xphase = .waitRead := rfl
@[simp] theorem State.beginRead_xlatch (s : State) (n : Nat) : (s.beginRead n).xlatch = s.xlatch := rfl
@[simp] theorem State.beginRead_inputs (s : State) (n : Nat) : (s.beginRead n).inputs = s.inputs := rfl
@[simp] theorem State.beginRead_transport (s : State) (n : Nat) : (s.beginRead n).transport = s.transport ++ [TransportEvent.read s.cfg.tagAddr n] := rfl
@[simp] theorem State.beginRead_reports (s : State) (n : Nat) : (s.beginRead n).reports = s.reports := rfl
@[simp] theorem State.beginRead_seen (s : State) (n : Nat) : (s.beginRead n).seen = s.seen := rfl

@[simp] theorem State.observe_cfg (s : State) (b : List Byte) : (s.observe b).cfg = s.cfg := rfl
@[simp] theorem State.observe_fcs (s : State) (b : List Byte) : (s.observe b).fcs = s.fcs := rfl
@[simp] theorem State.observe_crcPhase (s : State) (b : List Byte) : (s.observe b).crcPhase = s.crcPhase := rfl
@[simp] theorem State.observe_xphase (s : State) (b : List Byte) : (s.observe b).xphase = s.xphase := rfl
@[simp] theorem State.observe_xlatch (s : State) (b : List Byte) : (s.observe b).xlatch = s.xlatch := rfl
@[simp] theorem State.observe_inputs (s : State) (b : List Byte) : (s.observe b).inputs = s.inputs := rfl
@[simp] theorem State.observe_transport (s : State) (b : List Byte) : (s.observe b).transport = s.transport := rfl
@[simp] theorem State.observe_reports (s : State) (b : List Byte) : (s.observe b).reports = s.reports := rfl
@[simp] theorem State.observe_seen (s : State) (b : List Byte) : (s.observe b).seen = s.seen ++ [classify b] := rfl

@[simp] theorem State.resetBlock_cfg (s : State) : (s.resetBlock).cfg = s.cfg := rfl
@[simp] theorem State.resetBlock_fcs (s : State) : (s.resetBlock).fcs = none := rfl
@[simp] theorem State.resetBlock_crcPhase (s : State) : (s.resetBlock).crcPhase = .unseeded := rfl
@[simp] theorem State.resetBlock_xphase (s : State) : (s.resetBlock).xphase = .idle := rfl
@[simp] theorem State.resetBlock_xlatch (s : State) : (s.resetBlock).xlatch = none := rfl
@[simp] theorem State.resetBlock_inputs (s : State) : (s.resetBlock).inputs = s.inputs := rfl
@[simp] theorem State.resetBlock_transport (s : State) : (s.resetBlock).transport = s.transport := rfl
@[simp] theorem State.resetBlock_reports (s : State) : (s.resetBlock).reports = s.reports := rfl
@[simp] theorem State.resetBlock_seen (s : State) : (s.resetBlock).seen = s.seen := rfl

@[simp] theorem State.withInputs_cfg (s : State) (is : List Input) : (s.withInputs is).cfg = s.cfg := rfl
@[simp] theorem State.withInputs_fcs (s : State) (is : List Input) : (s.withInputs is).fcs = s.fcs := rfl
@[simp] theorem State.withInputs_crcPhase (s : State) (is : List Input) : (s.withInputs is).crcPhase = s.crcPhase := rfl
@[simp] theorem State.withInputs_xphase (s : State) (is : List Input) : (s.withInputs is).xphase = s.xphase := rfl
@[simp] theorem State.withInputs_xlatch (s : State) (is : List Input) : (s.withInputs is).xlatch = s.xlatch := rfl
@[simp] theorem State.withInputs_inputs (s : State) (is : List Input) : (s.withInputs is).inputs = is := rfl
@[simp] theorem State.withInputs_transport (s : State) (is : List Input) : (s.withInputs is).transport = s.transport := rfl
@[simp] theorem State.withInputs_reports (s : State) (is : List Input) : (s.withInputs is).reports = s.reports := rfl
@[simp] theorem State.withInputs_seen (s : State) (is : List Input) : (s.withInputs is).seen = s.seen := rfl

end Sys2Proof.Machine
end

