-- ==== Sys2Proof/Laws/Ops.lean ====
section
/-! SUPPORT. What each shared operation does, said once. -/

namespace Sys2Proof.Machine

variable {s t : State}

@[simp] theorem raise_usageFault (s : State) (k : UsageFaultKind) : s.raise (.usageFault k) = s.deliver (.usageFault k) := rfl
@[simp] theorem raise_refused (s : State) (r : RefusalReason) : s.raise (.refused r) = s.deliver (.refused r) := rfl
@[simp] theorem raise_result (s : State) (v : Value) : s.raise (.result v) = s.deliver (.result v) := rfl
@[simp] theorem refuse_eq (s : State) (r : RefusalReason) : s.refuse r = s.deliver (.refused r) := rfl

theorem whenIdle_of_idle (h : s.xphase = .idle) (work : State) : whenIdle s work = .next work := if_pos h

theorem whenIdle_of_busy (h : s.xphase ≠ .idle) (work : State) :
    whenIdle s work = .next (s.deliver (.refused .busy)) := if_neg h

/-- An operation under `whenIdle` is refused with `BUSY` or does its work. -/
theorem whenIdle_cases {work : State} (h : whenIdle s work = .next t) :
    (s.xphase ≠ .idle ∧ t = s.deliver (.refused .busy)) ∨ (s.xphase = .idle ∧ t = work) := by
  by_cases hs : s.xphase = .idle
  · rw [whenIdle_of_idle hs] at h
    exact .inr ⟨hs, (Host.Outcome.next.inj h).symm⟩
  · rw [whenIdle_of_busy hs] at h
    exact .inl ⟨hs, (Host.Outcome.next.inj h).symm⟩

/-- An exchange with its outcome leaves the block idle with an empty latch, whatever the outcome (R140). -/
theorem finish_eq (s : State) (r : Report) : s.finish r = s.endExchange.deliver r := by
  cases r <;> rfl

/-- All that `onWrote` can do. -/
theorem onWrote_cases {st : Int} {reached : Nat} (h : onWrote st reached s = .next t) :
    ∃ l, s.xphase = .waitWrite ∧ s.xlatch = some l ∧
      ((st ≠ 0 ∧ t = (s.record (.wrote st reached)).endExchange.deliver (.transportError .write st)) ∨
       (st = 0 ∧ l.n = none ∧ t = (s.record (.wrote st reached)).endExchange.deliver (.result (.bytes []))) ∨
       (∃ n, st = 0 ∧ l.n = some n ∧ t = (s.record (.wrote st reached)).beginRead n)) := by
  unfold onWrote at h
  split at h
  case h_1 l hp hl =>
    refine ⟨l, hp, hl, ?_⟩
    split at h
    · next hst => exact .inl ⟨hst, by rw [← Host.Outcome.next.inj h, finish_eq]⟩
    · next hst =>
      have hst : st = 0 := by simpa using hst
      split at h
      · next hn => exact .inr (.inl ⟨hst, hn, by rw [← Host.Outcome.next.inj h, finish_eq]⟩)
      · next n hn => exact .inr (.inr ⟨n, hst, hn, (Host.Outcome.next.inj h).symm⟩)
  all_goals cases h

/-- All that `onGot` can do. -/
theorem onGot_cases {st : Int} {data : List Byte} (h : onGot st data s = .next t) :
    ∃ l n, s.xphase = .waitRead ∧ s.xlatch = some l ∧ l.n = some n ∧
      t = (s.record (.got st data)).endExchange.deliver (responseReport s.cfg n l.chk st data) := by
  unfold onGot at h
  split at h
  case h_1 l hp hl =>
    split at h
    · next n hn => exact ⟨l, n, hp, hl, hn, by rw [← Host.Outcome.next.inj h, finish_eq]⟩
    · cases h
  all_goals cases h

/-- All that `onReset` can do. -/
theorem onReset_cases (h : onReset s = .next t) : s.xphase = .idle ∧ t = s.resetBlock := by
  unfold onReset at h
  split at h
  · next hs => exact ⟨hs, (Host.Outcome.next.inj h).symm⟩
  · cases h

/-- With nothing pending a step changes nothing. -/
theorem step_nil (h : s.inputs = []) : step s = .next s := by
  simp [step, nextEvent, h]

/-- A step takes the first pending event. -/
theorem step_cons {e : Input} {rest : List Input} (h : s.inputs = e :: rest) :
    step s = onInput e (s.withInputs rest) := by
  simp [step, nextEvent, h]

/-- A run of one step more begins with a step. -/
theorem core_run_succ {k : Nat} (h : step s = .next t) :
    Host.Core.run Sys2Proof.core (k + 1) s = Host.Core.run Sys2Proof.core k t := by
  have hc : Sys2Proof.core.step s = .next t := h
  simp only [Host.Core.run, hc]

end Sys2Proof.Machine
end

