-- ==== Sys2Proof/Laws/Exec.lean ====
section
/-! SUPPORT. What an instruction and a step can do, said once. -/

namespace Sys2Proof.Machine

open Safety

variable {s t : State} {i : Instr}

/-- The exchange a protocol operation starts: the latch and the frame (42_exchange.md R123 to R127). -/
def exchangeOf (cfg : Params) : Instr → Option (Latch × List Byte)
  | .killRfSelectI2c => some (⟨.killRfSelectI2c, none, false⟩, frameKill)
  | .selectNfcT4App pcb chk => some (⟨.selectNfcT4App, some selectReadLength, chk⟩, frameSelectApp pcb)
  | .selectFile fileId pcb chk => some (⟨.selectFile, some selectReadLength, chk⟩, frameSelectFile fileId pcb)
  | .readBinary offset length pcb chk =>
    some (⟨.readBinary, some (binaryReadLength length), chk⟩, frameReadBinary offset length pcb)
  | .deselect => some (⟨.deselect, deselectReadLength cfg, false⟩, frameDeselect)
  | .crcStart => none
  | .crcUpdate _ => none
  | .crcFinalize => none
  | .crcCompute _ => none
  | .reservedOp9 _ => none
  | .reservedOpAB _ _ => none
  | .reservedOpCF _ _ => none
  | .frameKillRfSelectI2c => none
  | .frameDeselect => none
  | .frameSelectNfcT4App _ _ _ => none
  | .frameSelectFile _ _ _ _ => none
  | .frameReadBinary _ _ _ _ _ => none

/-- All that one instruction can do. -/
inductive ExecEffect (i : Instr) (s : State) : State → Prop
  /-- It is refused because an exchange is in progress. -/
  | busy (h : s.xphase ≠ .idle) : ExecEffect i s (s.deliver (.refused .busy))
  /-- It writes the accumulator and returns a result. -/
  | crc (v : Half) (p : CrcPhase) (r : Value) (hc : isCrcOp i) (h : s.xphase = .idle) (hp : p ≠ .unseeded) :
      ExecEffect i s ((s.setCrc v p).deliver (.result r))
  /-- It closes the accumulator and returns its bytes. -/
  | finalized (v : Half) (r : Value) (hc : isCrcOp i) (h : s.xphase = .idle) (hv : s.fcs = some v) :
      ExecEffect i s ((s.setCrcPhase .finalized).deliver (.result r))
  /-- It raises a usage fault. -/
  | usage (k : UsageFaultKind) (hc : isCrcOp i) (h : s.xphase = .idle) : ExecEffect i s (s.deliver (.usageFault k))
  /-- It hands its frame to the transport. -/
  | exchange (l : Latch) (f : List Byte) (h : s.xphase = .idle) (hx : exchangeOf s.cfg i = some (l, f)) :
      ExecEffect i s (s.beginExchange l f)
  /-- It is a reserved word. -/
  | reserved (w : CmdWord) (hr : isReserved i) (h : s.xphase = .idle) :
      ExecEffect i s (s.deliver (.refused (.reservedOp w)))
  /-- It is a captured frame. -/
  | observed (b : List Byte) (hf : isFrame i) : ExecEffect i s (s.observe b)

theorem crcUpdateWork_effect (b : Byte) (hs : s.xphase = .idle) :
    ExecEffect (.crcUpdate b) s (crcUpdateWork b s) := by
  unfold crcUpdateWork
  split
  · exact .usage _ rfl hs
  split
  · exact .usage _ rfl hs
  cases s.fcs
  · exact .usage _ rfl hs
  · exact .crc _ _ _ rfl hs (by simp)

theorem crcFinalizeWork_effect (hs : s.xphase = .idle) : ExecEffect .crcFinalize s (crcFinalizeWork s) := by
  unfold crcFinalizeWork
  split
  · exact .usage _ rfl hs
  cases hf : s.fcs
  · exact .usage _ rfl hs
  · exact .finalized _ _ rfl hs hf

/-- What an instruction does is one of these effects, and it always has a next state. -/
theorem exec_effect (i : Instr) (s : State) : ∃ t, exec i s = .next t ∧ ExecEffect i s t := by
  have key : ∀ work, (s.xphase = .idle → ExecEffect i s work) →
      ∃ t, whenIdle s work = .next t ∧ ExecEffect i s t := by
    intro work h
    by_cases hs : s.xphase = .idle
    · exact ⟨_, whenIdle_of_idle hs _, h hs⟩
    · exact ⟨_, whenIdle_of_busy hs _, .busy hs⟩
  cases i with
  | crcStart => exact key _ fun hs => .crc _ _ _ rfl hs (by simp)
  | crcUpdate b => exact key _ fun hs => crcUpdateWork_effect b hs
  | crcFinalize => exact key _ fun hs => crcFinalizeWork_effect hs
  | crcCompute buf => exact key _ fun hs => .crc _ _ _ rfl hs (by simp)
  | killRfSelectI2c => exact key _ fun hs => .exchange _ _ hs rfl
  | selectNfcT4App pcb chk => exact key _ fun hs => .exchange _ _ hs rfl
  | selectFile fileId pcb chk => exact key _ fun hs => .exchange _ _ hs rfl
  | readBinary offset length pcb chk => exact key _ fun hs => .exchange _ _ hs rfl
  | deselect => exact key _ fun hs => .exchange _ _ hs rfl
  | reservedOp9 upper => exact key _ fun hs => .reserved _ rfl hs
  | reservedOpAB upper low => exact key _ fun hs => .reserved _ rfl hs
  | reservedOpCF upper low => exact key _ fun hs => .reserved _ rfl hs
  | frameKillRfSelectI2c => exact ⟨_, rfl, .observed _ rfl⟩
  | frameDeselect => exact ⟨_, rfl, .observed _ rfl⟩
  | frameSelectNfcT4App pcb c0 c1 => exact ⟨_, rfl, .observed _ rfl⟩
  | frameSelectFile pcb fileId c0 c1 => exact ⟨_, rfl, .observed _ rfl⟩
  | frameReadBinary pcb offset length c0 c1 => exact ⟨_, rfl, .observed _ rfl⟩

/-- The inversion of `exec`. -/
theorem exec_cases (h : exec i s = .next t) : ExecEffect i s t := by
  obtain ⟨t', h', e⟩ := exec_effect i s
  rw [h'] at h
  exact Host.Outcome.next.inj h ▸ e

/-- All that presenting a packet can do. -/
inductive PacketEffect (p : Packet) (s : State) : State → Prop
  | ran (i : Instr) {t : State} (hd : decode p = .ok i) (e : ExecEffect i s t) : PacketEffect p s t
  | busy (h : s.xphase ≠ .idle) : PacketEffect p s (s.deliver (.refused .busy))
  | refused (r : RefusalReason) (hd : decode p = .error (.refused r)) (h : s.xphase = .idle) :
      PacketEffect p s (s.deliver (.refused r))
  | observed (b : List Byte) (hp : p = .frame b) (hd : decode p = .error .notABlockFrame) : PacketEffect p s (s.observe b)

/-- What a packet does is one of these effects, and it always has a next state. -/
theorem onPacket_effect (p : Packet) (s : State) : ∃ t, onPacket p s = .next t ∧ PacketEffect p s t := by
  cases p with
  | command w buf =>
    cases hd : decodeCommand w buf with
    | ok i =>
      obtain ⟨t, h, e⟩ := exec_effect i s
      exact ⟨t, by simpa [onPacket, hd] using h, .ran i (by simp [decode, hd]) e⟩
    | error r =>
      by_cases hs : s.xphase = .idle
      · exact ⟨_, by simp [onPacket, hd, whenIdle_of_idle hs], .refused r (by simp [decode, hd]) hs⟩
      · exact ⟨_, by simp [onPacket, hd, whenIdle_of_busy hs], .busy hs⟩
  | frame b =>
    cases hd : decodeFrame b with
    | some i =>
      obtain ⟨t, h, e⟩ := exec_effect i s
      exact ⟨t, by simpa [onPacket, hd] using h, .ran i (by simp [decode, hd]) e⟩
    | none => exact ⟨_, by simp [onPacket, hd], .observed b rfl (by simp [decode, hd])⟩

/-- All that a step can do when it answers a next state. -/
inductive StepEffect (s : State) : State → Prop
  | stays (h : s.inputs = []) : StepEffect s s
  | packet (p : Packet) (rest : List Input) {t : State} (h : s.inputs = .packet p :: rest)
      (e : PacketEffect p (s.withInputs rest) t) : StepEffect s t
  | wrote (st : Int) (reached : Nat) (rest : List Input) {t : State} (h : s.inputs = .wrote st reached :: rest)
      (e : onWrote st reached (s.withInputs rest) = .next t) : StepEffect s t
  | got (st : Int) (data : List Byte) (rest : List Input) {t : State} (h : s.inputs = .got st data :: rest)
      (e : onGot st data (s.withInputs rest) = .next t) : StepEffect s t
  | reset (rest : List Input) (h : s.inputs = .reset :: rest) (hs : s.xphase = .idle) :
      StepEffect s (s.withInputs rest).resetBlock

/-- The inversion of `step`. -/
theorem step_cases (h : step s = .next t) : StepEffect s t := by
  cases hi : s.inputs with
  | nil =>
    rw [step_nil hi] at h
    exact Host.Outcome.next.inj h ▸ .stays hi
  | cons e rest =>
    rw [step_cons hi] at h
    cases e with
    | packet p =>
      obtain ⟨t', h', e⟩ := onPacket_effect p (s.withInputs rest)
      rw [show onInput (.packet p) (s.withInputs rest) = onPacket p (s.withInputs rest) from rfl, h'] at h
      exact .packet p rest hi (Host.Outcome.next.inj h ▸ e)
    | wrote st k => exact .wrote st k rest hi h
    | got st d => exact .got st d rest hi h
    | reset =>
      obtain ⟨hs, rfl⟩ := onReset_cases h
      exact .reset rest hi hs

end Sys2Proof.Machine
end

