-- ==== Sys2Proof/Laws/PerInstr.lean ====
section
/-! SUPPORT. The family TableRow: the encoding of each instruction is of its row of spec/opcode_table.json, whose mask
and match are written out here from the table. -/

namespace Sys2Proof.Laws.TableRow

open Machine

/-- A command word under a row's mask. -/
def commandRow (mask pattern : CmdWord) : Packet → Prop
  | .command w _ => w &&& mask = pattern
  | .frame _ => False

/-- A wire frame under a row's mask, byte by byte, byte 0 first. -/
def frameRow (mask pattern : List Byte) : Packet → Prop
  | .command _ _ => False
  | .frame s => s.length = mask.length ∧ List.zipWith (· &&& ·) s mask = pattern

/-- The encoding of `i` is of the table's row for `i`. -/
def Statement (i : Instr) : Prop :=
  match i with
  | .crcStart => commandRow 0xFFFFFFFFFF 0x0000000000 (encode i)
  | .crcUpdate _ => commandRow 0xFFFFFF00FF 0x0000000001 (encode i)
  | .crcFinalize => commandRow 0xFFFFFFFFFF 0x0000000002 (encode i)
  | .crcCompute _ => commandRow 0xFFFFFFFFFF 0x0000000003 (encode i)
  | .killRfSelectI2c => commandRow 0xFFFFFFFFFF 0x0000000004 (encode i)
  | .selectNfcT4App _ _ => commandRow 0xFFFFFF00EF 0x0000000005 (encode i)
  | .selectFile _ _ _ => commandRow 0xFF000000EF 0x0000000006 (encode i)
  | .readBinary _ _ _ _ => commandRow 0x00000000EF 0x0000000007 (encode i)
  | .deselect => commandRow 0xFFFFFFFFFF 0x0000000008 (encode i)
  | .reservedOp9 _ => commandRow 0x000000000F 0x0000000009 (encode i)
  | .reservedOpAB _ _ => commandRow 0x000000000E 0x000000000A (encode i)
  | .reservedOpCF _ _ => commandRow 0x000000000C 0x000000000C (encode i)
  | .frameKillRfSelectI2c => frameRow [0xFF] [0x52] (encode i)
  | .frameDeselect => frameRow [0xFF, 0xFF, 0xFF] [0xC2, 0xE0, 0xB4] (encode i)
  | .frameSelectNfcT4App _ _ _ =>
    frameRow [0x00, 0xFF, 0xFF, 0xFF, 0xFF, 0xFF, 0xFF, 0xFF, 0xFF, 0xFF, 0xFF, 0xFF, 0xFF, 0xFF, 0x00, 0x00]
      [0x00, 0x00, 0xA4, 0x04, 0x00, 0x07, 0xD2, 0x76, 0x00, 0x00, 0x85, 0x01, 0x01, 0x00, 0x00, 0x00] (encode i)
  | .frameSelectFile _ _ _ _ =>
    frameRow [0x00, 0xFF, 0xFF, 0xFF, 0xFF, 0xFF, 0x00, 0x00, 0x00, 0x00]
      [0x00, 0x00, 0xA4, 0x00, 0x0C, 0x02, 0x00, 0x00, 0x00, 0x00] (encode i)
  | .frameReadBinary _ _ _ _ _ =>
    frameRow [0x00, 0xFF, 0xFF, 0x00, 0x00, 0x00, 0x00, 0x00] [0x00, 0x00, 0xB0, 0x00, 0x00, 0x00, 0x00, 0x00] (encode i)

theorem crcStart : Statement .crcStart := by
  show assemble _ _ _ _ _ &&& _ = _
  decide
theorem crcUpdate (b : Byte) : Statement (.crcUpdate b) := by
  show assemble _ _ _ _ _ &&& _ = _
  rw [assemble_and]
  simp [opField, chkField, a8Field, a16Field, lenField]
  decide
theorem crcFinalize : Statement .crcFinalize := by
  show assemble _ _ _ _ _ &&& _ = _
  decide
theorem crcCompute (buf : List Byte) : Statement (.crcCompute buf) := by
  show assemble _ _ _ _ _ &&& _ = _
  decide
theorem killRfSelectI2c : Statement .killRfSelectI2c := by
  show assemble _ _ _ _ _ &&& _ = _
  decide
theorem selectNfcT4App (pcb : Byte) (chk : Bool) : Statement (.selectNfcT4App pcb chk) := by
  show assemble _ _ _ _ _ &&& _ = _
  rw [assemble_and]
  simp [opField, chkField, a8Field, a16Field, lenField]
  decide
theorem selectFile (fileId : Half) (pcb : Byte) (chk : Bool) : Statement (.selectFile fileId pcb chk) := by
  show assemble _ _ _ _ _ &&& _ = _
  rw [assemble_and]
  simp [opField, chkField, a8Field, a16Field, lenField]
  decide
theorem readBinary (offset : Half) (length pcb : Byte) (chk : Bool) : Statement (.readBinary offset length pcb chk) := by
  show assemble _ _ _ _ _ &&& _ = _
  rw [assemble_and]
  simp [opField, chkField, a8Field, a16Field, lenField]
  decide
theorem deselect : Statement .deselect := by
  show assemble _ _ _ _ _ &&& _ = _
  decide
theorem reservedOp9 (upper : BitVec 36) : Statement (.reservedOp9 upper) := by
  show reservedWord9 upper &&& _ = _
  apply BitVec.eq_of_getLsbD_eq
  intro i hi
  rw [BitVec.getLsbD_and, reservedWord9, BitVec.getLsbD_append]
  interval_cases i <;> simp
theorem reservedOpAB (upper : BitVec 36) (low : BitVec 1) : Statement (.reservedOpAB upper low) := by
  show reservedWordAB upper low &&& _ = _
  apply BitVec.eq_of_getLsbD_eq
  intro i hi
  rw [BitVec.getLsbD_and, reservedWordAB, BitVec.getLsbD_append, BitVec.getLsbD_append]
  interval_cases i <;> simp
theorem reservedOpCF (upper : BitVec 36) (low : BitVec 2) : Statement (.reservedOpCF upper low) := by
  show reservedWordCF upper low &&& _ = _
  apply BitVec.eq_of_getLsbD_eq
  intro i hi
  rw [BitVec.getLsbD_and, reservedWordCF, BitVec.getLsbD_append, BitVec.getLsbD_append]
  interval_cases i <;> simp
theorem frameKillRfSelectI2c : Statement .frameKillRfSelectI2c := by
  simp [Statement, frameRow, encode, wireKill]
theorem frameDeselect : Statement .frameDeselect := by
  simp [Statement, frameRow, encode, wireDeselect]
theorem frameSelectNfcT4App (pcb c0 c1 : Byte) : Statement (.frameSelectNfcT4App pcb c0 c1) := by
  simp [Statement, frameRow, encode, wireSelectApp, bodySelectApp, Config.t4Aid]
theorem frameSelectFile (pcb : Byte) (fileId : Half) (c0 c1 : Byte) : Statement (.frameSelectFile pcb fileId c0 c1) := by
  simp [Statement, frameRow, encode, wireSelectFile, bodySelectFile]
theorem frameReadBinary (pcb : Byte) (offset : Half) (length c0 c1 : Byte) :
    Statement (.frameReadBinary pcb offset length c0 c1) := by
  simp [Statement, frameRow, encode, wireReadBinary, bodyReadBinary]

end Sys2Proof.Laws.TableRow
end

