-- ==== Sys2Proof/Tests/Slice0.lean ====
section
/-! SUPPORT. Tests of the model, with expected values from the spec (the section named in each comment), and for each
statement of Certificates/Slice0/Obligations.lean that has hypotheses a state and operands that meet them. -/

namespace Sys2Proof.Tests

open Machine Safety

/-! ### Small states -/

/-- The next state, where there is one. -/
def after (r : Result) : Option State :=
  match r with
  | .next t => some t
  | .fault _ => none
  | .refused _ => none

/-- The reset state with a value in the accumulator. -/
def crcState (v : Half) (p : CrcPhase) : State := { State.reset with fcs := some v, crcPhase := p }

/-- The reset state with `POST_FINALIZE_UPDATE` at its other value. -/
def foldState (v : Half) (p : CrcPhase) : State :=
  { crcState v p with cfg := { Params.default with postFinalizeUpdate := .fold } }

/-- A block that waits for its write. -/
def writing (l : Latch) (es : List Input) : State :=
  { State.reset with xphase := .waitWrite, xlatch := some l, inputs := es }

/-- A block that waits for its read. -/
def reading (cfg : Params) (l : Latch) (es : List Input) : State :=
  { State.reset with cfg := cfg, xphase := .waitRead, xlatch := some l, inputs := es }

/-- The parameters with `CHECK_CRC_MODE = VERIFY` and `LONG_RESPONSE = ACCEPT_PREFIX`. -/
def verifyCfg : Params := { Params.default with checkCrcMode := .verify, longResponse := .acceptPrefix }

/-- The parameters with `DESELECT_READ = ZERO_LENGTH`. -/
def zeroReadCfg : Params := { Params.default with deselectRead := .zeroLength }

/-- The reset state with events pending. -/
def pending (es : List Input) : State := { State.reset with inputs := es }

/-- What `k` steps deliver. -/
def delivered (k : Nat) (s : State) : Option (List Report) := (after (Host.Core.run Sys2Proof.core k s)).map State.reports

/-- The transport log after `k` steps. -/
def calls (k : Nat) (s : State) : Option (List TransportEvent) :=
  (after (Host.Core.run Sys2Proof.core k s)).map State.transport

/-! ### Well-formedness: a wire frame whose CRC field does not close it is refused (R79) -/

theorem test_wf_frameSelectNfcT4App :
    wellFormed (.frameSelectNfcT4App 0x02 0x35 0xC0) = true ∧ wellFormed (.frameSelectNfcT4App 0x02 0xC0 0x35) = false := by
  decide

theorem test_wf_frameSelectFile :
    wellFormed (.frameSelectFile 0x03 0xE103 0xD2 0xAF) = true ∧ wellFormed (.frameSelectFile 0x03 0xE103 0xD2 0xAE) = false := by
  decide

theorem test_wf_frameReadBinary :
    wellFormed (.frameReadBinary 0x02 0x0002 0x14 0x6C 0x3B) = true ∧ wellFormed (.frameReadBinary 0x02 0x0002 0x14 0x6B 0x3B) = false := by
  decide

/-! ### Decoding: fields written out in R62's order, `len ++ a16 ++ a8 ++ rsv ++ chk ++ op` -/

/-- A command word from its six fields. -/
def fields (len : BitVec 8) (a16 : BitVec 16) (a8 : BitVec 8) (rsv : BitVec 3) (chk : BitVec 1) (op : BitVec 4) : CmdWord :=
  len ++ (a16 ++ (a8 ++ (rsv ++ (chk ++ op))))

theorem test_decode_crcStart : decodeCommand (fields 0b00000000 0b0000000000000000 0b00000000 0b000 0b0 0b0000) none = .ok .crcStart := by decide

theorem test_decode_crcUpdate :
    decodeCommand (fields 0b00000000 0b0000000000000000 0b10010000 0b000 0b0 0b0001) none = .ok (.crcUpdate 0x90) := by decide

theorem test_decode_crcFinalize : decodeCommand (fields 0b00000000 0b0000000000000000 0b00000000 0b000 0b0 0b0010) none = .ok .crcFinalize := by decide

theorem test_decode_crcCompute :
    decodeCommand (fields 0b00000000 0b0000000000000000 0b00000000 0b000 0b0 0b0011) (some [0, 255]) = .ok (.crcCompute [0x00, 0xFF]) := by decide

theorem test_decode_killRfSelectI2c :
    decodeCommand (fields 0b00000000 0b0000000000000000 0b00000000 0b000 0b0 0b0100) none = .ok .killRfSelectI2c := by decide

theorem test_decode_selectNfcT4App :
    decodeCommand (fields 0b00000000 0b0000000000000000 0b00000011 0b000 0b1 0b0101) none = .ok (.selectNfcT4App 0x03 true) := by decide

theorem test_decode_selectFile :
    decodeCommand (fields 0b00000000 0b1110000100000011 0b00000011 0b000 0b0 0b0110) none = .ok (.selectFile 0xE103 0x03 false) := by decide

theorem test_decode_readBinary :
    decodeCommand (fields 0b00010100 0b0000000000000010 0b00000010 0b000 0b0 0b0111) none = .ok (.readBinary 0x0002 0x14 0x02 false) := by decide

theorem test_decode_deselect : decodeCommand (fields 0b00000000 0b0000000000000000 0b00000000 0b000 0b0 0b1000) none = .ok .deselect := by decide

theorem test_decode_reserved :
    decodeCommand (fields 0 0 0 0 0 0b1001) none = .ok (.reservedOp9 0) ∧
    decodeCommand (fields 0 0 0 0 1 0b1011) none = .ok (.reservedOpAB 1 1) ∧
    decodeCommand (fields 0x80 0 0 0 0 0b1110) none = .ok (.reservedOpCF 0x800000000 2) := by decide

/-- 95_test_vectors.md section 5: the refusals, in the order of R69, and R70's after them. -/
theorem test_decode_refusals :
    decodeCommand (fields 0 0 0 0b001 0 0b0000) none = .error (.reservedField 0x20) ∧
    decodeCommand (fields 0 0 1 0 0 0b0000) none = .error (.reservedField 0x100) ∧
    decodeCommand (fields 0 1 0 0 0 0b0001) none = .error (.reservedField 0x10001) ∧
    decodeCommand (fields 1 0 0 0 0 0b0110) none = .error (.reservedField 0x100000006) ∧
    decodeCommand (fields 0 0 0 0 1 0b1000) none = .error (.reservedField 0x18) ∧
    decodeCommand (fields 0 0 0 0 0 0b0011) none = .error .operandShape ∧
    decodeCommand (fields 0 0 0 0 0 0b0000) (some []) = .error .operandShape ∧
    decodeCommand (fields 0 0 0 0 0 0b0011) (some [256]) = .error .operandRange := by decide

/-- 95_test_vectors.md sections 3.1 to 3.4, and section 3.5's PCB 0x52, as captured frames. -/
theorem test_decode_frames :
    decodeFrame [0x52] = some .frameKillRfSelectI2c ∧
    decodeFrame [0xC2, 0xE0, 0xB4] = some .frameDeselect ∧
    decodeFrame [0x02, 0x00, 0xA4, 0x04, 0x00, 0x07, 0xD2, 0x76, 0x00, 0x00, 0x85, 0x01, 0x01, 0x00, 0x35, 0xC0] =
      some (.frameSelectNfcT4App 0x02 0x35 0xC0) ∧
    decodeFrame [0x52, 0x00, 0xA4, 0x00, 0x0C, 0x02, 0xE1, 0x01, 0x00, 0x00] =
      some (.frameSelectFile 0x52 0xE101 0x00 0x00) ∧
    decodeFrame [0x02, 0x00, 0xB0, 0x01, 0x02, 0x10, 0x94, 0x27] = some (.frameReadBinary 0x02 0x0102 0x10 0x94 0x27) ∧
    decodeFrame [0xC2, 0xE0, 0xB5] = none ∧ decodeFrame [] = none := by decide

/-- No word is of two rows of the opcode table: two rows differ in a bit that both fix. -/
theorem test_opcode_rows_disjoint :
    opcodeTable.Pairwise fun r q => r.pattern &&& q.mask ≠ q.pattern &&& r.mask := by decide

/-- The wire rows of 8, 24, 64, 80 and 128 bits, and a command word, as the opcode table numbers their bits. -/
theorem test_decodeTableWord :
    decodeTableWord 8 0x52 = some .frameKillRfSelectI2c ∧
    decodeTableWord 24 0xC2E0B4 = some .frameDeselect ∧
    decodeTableWord 64 0x0200B00102109427 = some (.frameReadBinary 0x02 0x0102 0x10 0x94 0x27) ∧
    decodeTableWord 80 0x0300A4000C02E103D2AF = some (.frameSelectFile 0x03 0xE103 0xD2 0xAF) ∧
    decodeTableWord 128 0x0200A4040007D276000085010100_35C0 = some (.frameSelectNfcT4App 0x02 0x35 0xC0) ∧
    decodeTableWord 40 0x3 = some (.crcCompute []) ∧
    decodeTableWord 40 0x20 = none := by decide

/-- 30_encoding.md R86's three examples. -/
theorem test_assemble :
    (AsmLine.selectFile .cc (some 0x03) none).packet = .command 0x00E1030306 none ∧
    (AsmLine.probeLength none).packet = .command 0x0200000207 none ∧
    (AsmLine.crcUpdate 0x02).packet = .command 0x0000000201 none := by decide

/-- The spelling of R86's second example, and of a `CRC_COMPUTE` line of R85. -/
theorem test_spell :
    (AsmLine.readBinary 0x0000 0x02 none none).spell = "READ_BINARY off=0x0000, len=0x02" ∧
    (AsmLine.crcCompute [0x02, 0x90]).spell = "CRC_COMPUTE buf=[02 90]" := by decide

/-! ### The CRC (95_test_vectors.md sections 1.1, 2.1, 2.2) -/

theorem test_crcStep :
    crcStep 0x6363 0x00 = 0x51FE ∧ crcStep 0x6363 0x63 = 0x0063 ∧ crcStep 0x0000 0x80 = 0x8408 ∧
    crcStep 0xFFFF 0xFF = 0x00FF ∧ crcStep 0x1234 0x56 = 0x4006 := by decide

theorem test_crc16_V1 : crcBytes [0x02, 0x00, 0xA4, 0x04, 0x00, 0x07, 0xD2, 0x76, 0x00, 0x00, 0x85, 0x01, 0x01, 0x00] = [0x35, 0xC0] := by
  decide

theorem test_crc16_V2_V4_V8_V9 :
    crcBytes [0x02, 0x90, 0x00] = [0xF1, 0x09] ∧ crcBytes [0x02, 0x00, 0xB0, 0x00, 0x00, 0x02] = [0x6B, 0x7D] ∧
    crcBytes [0x02, 0x00, 0xB0, 0x00, 0x02, 0x14] = [0x6C, 0x3B] ∧ crcBytes [0xC2] = [0xE0, 0xB4] := by decide

theorem test_crc16_V3_V5_V6_V7 :
    crcBytes [0x03, 0x00, 0xA4, 0x00, 0x0C, 0x02, 0xE1, 0x03] = [0xD2, 0xAF] ∧
    crcBytes [0x03, 0x00, 0xB0, 0x00, 0x00, 0x0F] = [0xA5, 0xA2] ∧
    crcBytes [0x02, 0x00, 0xA4, 0x00, 0x0C, 0x02, 0x00, 0x01] = [0x3E, 0xFD] ∧
    crcBytes [0x03, 0x00, 0xB0, 0x00, 0x00, 0x02] = [0x40, 0x79] := by decide

/-- The check value over the digits 1 to 9, and section 2.4's residue and its wrong byte. -/
theorem test_crc16_check :
    crc16 [0x31, 0x32, 0x33, 0x34, 0x35, 0x36, 0x37, 0x38, 0x39] = 0xBF05 ∧ crc16 [] = 0x6363 ∧
    crc16 [0x02, 0x90, 0x00, 0xF1, 0x09] = 0x0000 ∧ crc16 [0x02, 0x90, 0x00, 0xF1, 0x08] = 0x1189 := by decide

/-! ### One step of each operation (95_test_vectors.md sections 2.5, 4 and 5) -/

/-- What a step of the CRC16 Engine shows. -/
def crcView (r : Result) : Option (Option Half × CrcPhase × List Report) :=
  (after r).map fun t => (t.fcs, t.crcPhase, t.reports)

theorem test_crcStart : crcView (exec .crcStart (crcState 0x72EC .finalized)) = some (some 0x6363, .accumulating, [.result .unit]) := by decide

theorem test_crcUpdate :
    crcView (exec (.crcUpdate 0x02) (crcState 0x6363 .accumulating)) =
      some (some 0x72EC, .accumulating, [.result (.register 0x72EC)]) := by decide

theorem test_crcUpdate_after_finalize :
    crcView (exec (.crcUpdate 0xF1) (crcState 0x09F1 .finalized)) =
      some (some 0x09F1, .finalized, [.usageFault .updateAfterFinalize]) ∧
    crcView (exec (.crcUpdate 0xF1) (foldState 0x09F1 .finalized)) =
      some (some 0x0009, .accumulating, [.result (.register 0x0009)]) := by decide

theorem test_crcFinalize :
    crcView (exec .crcFinalize (crcState 0x09F1 .accumulating)) = some (some 0x09F1, .finalized, [.result (.pair 0xF1 0x09)]) ∧
    crcView (exec .crcFinalize State.reset) = some (none, .unseeded, [.usageFault .crcNotSeeded]) := by decide

theorem test_crcCompute :
    crcView (exec (.crcCompute [0xC2]) State.reset) = some (some 0xB4E0, .finalized, [.result (.pair 0xE0 0xB4)]) := by decide

theorem test_kill :
    (after (exec .killRfSelectI2c State.reset)).map (fun t => (t.transport, t.xphase)) =
      some ([TransportEvent.write 0x56 [0x52]], .waitWrite) := by decide

theorem test_selectNfcT4App :
    (after (exec (.selectNfcT4App 0x03 false) State.reset)).map State.transport = some
      [TransportEvent.write 0x56 [0x03, 0x00, 0xA4, 0x04, 0x00, 0x07, 0xD2, 0x76, 0x00, 0x00, 0x85, 0x01, 0x01, 0x00, 0xDF, 0xBE]] := by
  decide

theorem test_selectFile :
    (after (exec (.selectFile 0xE101 0x02 true) State.reset)).map (fun t => (t.transport, t.xlatch)) = some
      ([TransportEvent.write 0x56 [0x02, 0x00, 0xA4, 0x00, 0x0C, 0x02, 0xE1, 0x01, 0x7F, 0x0D]],
        some ⟨.selectFile, some 5, true⟩) := by decide

theorem test_readBinary :
    (after (exec (.readBinary 0x0000 0xFF 0x02 false) State.reset)).map (fun t => (t.transport, t.xlatch)) = some
      ([TransportEvent.write 0x56 [0x02, 0x00, 0xB0, 0x00, 0x00, 0xFF, 0x01, 0x51]],
        some ⟨.readBinary, some 260, false⟩) := by decide

theorem test_deselect :
    (after (exec .deselect { State.reset with cfg := zeroReadCfg })).map (fun t => (t.transport, t.xlatch)) = some
      ([TransportEvent.write 0x56 [0xC2, 0xE0, 0xB4]], some ⟨.deselect, some 0, false⟩) := by decide

theorem test_reserved :
    (after (exec (.reservedOpAB 1 1) State.reset)).map State.reports = some [.refused (.reservedOp 0x1B)] ∧
    (after (exec (.reservedOp9 0) (writing ⟨.deselect, none, false⟩ []))).map State.reports = some [.refused .busy] := by
  decide

theorem test_reservedOpCF :
    (after (exec (.reservedOpCF 0xFFFFFFFFF 3) State.reset)).map State.reports =
      some [.refused (.reservedOp 0xFFFFFFFFFF)] := by decide

theorem test_monitor :
    (after (exec (.frameSelectFile 0x52 0xE101 0x00 0x00) State.reset)).map State.seen = some [.notABlockFrame] ∧
    (after (exec (.frameReadBinary 0x02 0x0102 0x10 0x94 0x27) State.reset)).map State.seen =
      some [.readBinary 0x02 0x0102 0x10] := by decide

theorem test_monitor_of_fixed_frames :
    (after (exec .frameKillRfSelectI2c State.reset)).map State.seen = some [.killRfSelectI2c] ∧
    (after (exec .frameDeselect State.reset)).map State.seen = some [.deselect] ∧
    (after (exec (.frameSelectNfcT4App 0x02 0x35 0xC0) State.reset)).map State.seen = some [.selectNfcT4App 0x02] := by decide

/-- E2 and X9: a whole exchange, and one that fails its CRC check. -/
theorem test_exchange :
    delivered 3 (pending [.packet (.command 0x0000000205 none), .wrote 0 0, .got 0 [0x02, 0x90, 0x00, 0xF1, 0x09]]) =
      some [.result (.bytes [0x02, 0x90, 0x00, 0xF1, 0x09])] ∧
    delivered 1 (reading verifyCfg ⟨.selectNfcT4App, some 5, true⟩ [.got 0 [0x02, 0x90, 0x00, 0xF1, 0x08]]) =
      some [.protocolError .crcMismatch [0x02, 0x90, 0x00, 0xF1, 0x08]] := by decide

/-- X1 and X3: a failed write is followed by no read, and the read's status comes before its length. -/
theorem test_exchange_errors :
    delivered 1 (writing ⟨.selectNfcT4App, some 5, false⟩ [.wrote 5 2]) = some [.transportError .write 5] ∧
    calls 1 (writing ⟨.selectNfcT4App, some 5, false⟩ [.wrote 5 2]) = some [TransportEvent.wrote 5 2] ∧
    delivered 1 (reading Params.default ⟨.readBinary, some 7, false⟩ [.got 3 [0x02, 0x00]]) =
      some [.transportError .read 3] := by decide

/-- X4, X5, X6 and X7. -/
theorem test_length_and_crc_checks :
    delivered 1 (reading Params.default ⟨.selectFile, some 5, false⟩ [.got 0 [0x02, 0x90, 0x00, 0xF1]]) =
      some [.protocolError .shortResponse [0x02, 0x90, 0x00, 0xF1]] ∧
    delivered 1 (reading Params.default ⟨.selectFile, some 5, false⟩ [.got 0 [0x02, 0x90, 0x00, 0xF1, 0x09, 0x00]]) =
      some [.protocolError .longResponse [0x02, 0x90, 0x00, 0xF1, 0x09, 0x00]] ∧
    delivered 1 (reading verifyCfg ⟨.selectFile, some 5, false⟩ [.got 0 [0x02, 0x90, 0x00, 0xF1, 0x09, 0x00]]) =
      some [.result (.bytes [0x02, 0x90, 0x00, 0xF1, 0x09])] ∧
    delivered 1 (reading Params.default ⟨.selectNfcT4App, some 5, true⟩ [.got 0 [0x02, 0x90, 0x00, 0xF1, 0x09]]) =
      some [.protocolError .crcCheckUnimplemented [0x02, 0x90, 0x00, 0xF1, 0x09]] := by decide

/-- A table row's bits placed to come next are run by the next step. -/
theorem test_withFetchWord :
    (after (step (State.reset.withFetchWord 40 0x8))).map State.xphase = some .waitWrite ∧
    (after (step (State.reset.withFetchWord 24 0xC2E0B4))).map State.seen = some [.deselect] ∧
    (after (step (State.reset.withFetchWord 40 0x3))).map State.fcs = some (some 0x6363) := by decide

/-- 42_exchange.md R130's order, R132's scenario in it, and R159's alternation. -/
theorem test_tag_order :
    inTagOrder .idle [.killRfSelectI2c, .selectNfcT4App 2 false, .selectFile 0xE101 2 false, .readBinary 0 2 2 false] = true ∧
    inTagOrder .idle [.killRfSelectI2c, .selectFile 0xE101 2 false] = false ∧
    pcbAlternates none [.selectNfcT4App 2 false, .selectFile 1 3 false, .deselect, .readBinary 0 2 2 false] = true ∧
    pcbAlternates none [.selectNfcT4App 2 false, .selectFile 1 2 false] = false := by decide

/-! ### Witnesses: for each statement with hypotheses, a state and operands that meet them together -/

theorem witness_CrcStartSeedsAccumulator : (crcState 0x1234 .finalized).xphase = .idle := by decide

theorem witness_CrcUpdateFoldsOneByte :
    ((crcState 0xFFFF .accumulating).xphase = .idle ∧ (crcState 0xFFFF .accumulating).fcs = some 0xFFFF ∧
      (crcState 0xFFFF .accumulating).crcPhase = .accumulating) ∧
    ((foldState 0x0000 .finalized).xphase = .idle ∧ (foldState 0x0000 .finalized).fcs = some 0x0000 ∧
      (foldState 0x0000 .finalized).crcPhase = .finalized ∧
      (foldState 0x0000 .finalized).cfg.postFinalizeUpdate = .fold) := by decide

theorem witness_UsageFaultsAreRaisedAndChangeNothing :
    (State.reset.xphase = .idle ∧ State.reset.crcPhase = .unseeded) ∧
    ((crcState 0x09F1 .finalized).xphase = .idle ∧ (crcState 0x09F1 .finalized).crcPhase = .finalized ∧
      (crcState 0x09F1 .finalized).cfg.postFinalizeUpdate = .fault) := by decide

theorem witness_CrcFinalizeReturnsLowThenHigh :
    (crcState 0xFF00 .accumulating).xphase = .idle ∧ (crcState 0xFF00 .accumulating).fcs = some 0xFF00 ∧
    (crcState 0xFF00 .accumulating).crcPhase ≠ .unseeded := by decide

theorem witness_CrcComputeFoldsFromTheSeed : State.reset.xphase = .idle := by decide

theorem witness_CrcComputeEqualsItsExpansion :
    State.reset.xphase = .idle ∧ (0 : Nat) < ([0xC2] : List Byte).length := by decide

theorem witness_CrcOfABufferIsIdempotent :
    State.reset.xphase = .idle ∧ (crcState 0x2C2C .accumulating).xphase = .idle := by decide

theorem witness_CrcOkIsTheResidueTest :
    2 ≤ ([0x63, 0x63] : List Byte).length ∧ ([0x00] : List Byte).length < 2 := by decide

theorem witness_UnseededSecondSequenceIsConcatenated :
    (crcState 0x72EC .accumulating).xphase = .idle ∧ (crcState 0x72EC .accumulating).crcPhase = .accumulating ∧
    (crcState 0x72EC .accumulating).fcs = some (crc16 [0x02]) := by decide

theorem witness_CrcOperationsAreAtomicAndLocal :
    isCrcOp (.crcUpdate 0x00) = true ∧ (writing ⟨.deselect, none, false⟩ []).xphase ≠ .idle := by decide

theorem witness_OnlyResetUnseeds :
    ∃ t, step { crcState 0x0000 .accumulating with inputs := [.packet (.command 0x2 none)] } = .next t ∧
      t.inputs.head? ≠ some .reset ∧ (crcState 0x0000 .accumulating).fcs ≠ none ∧
      (crcState 0x0000 .accumulating).crcPhase ≠ .unseeded := ⟨_, rfl, by decide⟩

theorem witness_OnlyStartOrComputeSeeds :
    (∃ t, step (pending [.packet (.command 0x0 none)]) = .next t ∧ State.reset.fcs = none ∧ t.fcs = some 0x6363) ∧
    (∃ t, step (pending [.packet (.command 0x3 (some [0xC2]))]) = .next t ∧ t.fcs = some 0xB4E0) :=
  ⟨⟨_, rfl, by decide⟩, ⟨_, rfl, by decide⟩⟩

theorem witness_KillRfSelectI2cStartsItsExchange : State.reset.xphase = .idle := by decide

theorem witness_SelectNfcT4AppStartsItsExchange : State.reset.xphase = .idle := by decide

theorem witness_SelectFileStartsItsExchange :
    State.reset.xphase = .idle ∧ (0xE103 : Half).toNat = (0xE1 : Byte).toNat * 256 + (0x03 : Byte).toNat ∧
    (0xFFFF : Half).toNat = (0xFF : Byte).toNat * 256 + (0xFF : Byte).toNat := by decide

theorem witness_ReadBinaryStartsItsExchange :
    State.reset.xphase = .idle ∧ (0x0102 : Half).toNat = (0x01 : Byte).toNat * 256 + (0x02 : Byte).toNat ∧
    (0xFFFF : Half).toNat = (0xFF : Byte).toNat * 256 + (0xFF : Byte).toNat := by decide

theorem witness_DeselectStartsItsExchange :
    (State.reset.xphase = .idle ∧ State.reset.cfg.deselectRead = .none) ∧
    (({ State.reset with cfg := zeroReadCfg } : State).xphase = .idle ∧
      ({ State.reset with cfg := zeroReadCfg } : State).cfg.deselectRead = .zeroLength) := by decide

theorem witness_FramesDependOnOperandsAlone :
    isProtocolOp (.readBinary 0xFFFF 0xFF 0x03 true) = true ∧ State.reset.xphase = .idle := by decide

theorem witness_EveryFrameButKillIsClosedByItsCrc :
    (∃ t, exec .killRfSelectI2c State.reset = .next t ∧ t.transport = [] ++ [TransportEvent.write 0x56 [0x52]] ∧
      isProtocolOp .killRfSelectI2c = true ∧ State.reset.xphase = .idle) ∧
    (∃ t, exec .deselect State.reset = .next t ∧ t.transport = [] ++ [TransportEvent.write 0x56 [0xC2, 0xE0, 0xB4]] ∧
      isProtocolOp .deselect = true ∧ Instr.deselect ≠ .killRfSelectI2c) := ⟨⟨_, rfl, by decide⟩, ⟨_, rfl, by decide⟩⟩

theorem witness_CrcIsLittleEndianAndOperandsAreBigEndian :
    (crcState 0x00FF .finalized).xphase = .idle ∧ (crcState 0x00FF .finalized).fcs = some 0x00FF ∧
    (crcState 0x00FF .finalized).crcPhase ≠ .unseeded := by decide

theorem witness_ProtocolOperationsDoNotDisturbTheAccumulator :
    (∃ t, exec .deselect (crcState 0x72EC .accumulating) = .next t ∧ isProtocolOp .deselect = true) ∧
    (∃ t, step (writing ⟨.deselect, none, false⟩ [.wrote 0 0]) = .next t) ∧
    (∃ t, step (reading Params.default ⟨.selectFile, some 5, true⟩ [.got 0 []]) = .next t) :=
  ⟨⟨_, rfl, by decide⟩, ⟨_, rfl⟩, ⟨_, rfl⟩⟩

/-- One witness for each of the three clauses. -/
theorem witness_WriteAnswerEndsOrStartsTheRead :
    ((writing ⟨.selectFile, some 5, false⟩ [.wrote (-1) 0]).xphase = .waitWrite ∧
      (writing ⟨.selectFile, some 5, false⟩ [.wrote (-1) 0]).xlatch = some ⟨.selectFile, some 5, false⟩ ∧
      (writing ⟨.selectFile, some 5, false⟩ [.wrote (-1) 0]).inputs = .wrote (-1) 0 :: [] ∧ (-1 : Int) ≠ 0) ∧
    ((writing ⟨.deselect, none, false⟩ [.wrote 0 3]).xphase = .waitWrite ∧
      (writing ⟨.deselect, none, false⟩ [.wrote 0 3]).inputs = .wrote 0 3 :: [] ∧ (Latch.mk .deselect none false).n = none) ∧
    ((writing ⟨.deselect, some 0, false⟩ [.wrote 0 3]).xphase = .waitWrite ∧
      (writing ⟨.deselect, some 0, false⟩ [.wrote 0 3]).inputs = .wrote 0 3 :: [] ∧
      (Latch.mk .deselect (some 0) false).n = some 0) := by decide

/-- The lengths just below, at and just above the length asked for, and a status that is not zero. -/
theorem witness_ReadAnswerIsCheckedInOrder :
    ((reading verifyCfg ⟨.selectFile, some 5, true⟩ [.got 1 []]).xphase = .waitRead ∧
      (reading verifyCfg ⟨.selectFile, some 5, true⟩ [.got 1 []]).xlatch = some ⟨.selectFile, some 5, true⟩ ∧
      (reading verifyCfg ⟨.selectFile, some 5, true⟩ [.got 1 []]).inputs = .got 1 [] :: [] ∧ (1 : Int) ≠ 0) ∧
    ([0x02, 0x90, 0x00, 0xF1] : List Byte).length < 5 ∧
    (5 < ([0x02, 0x90, 0x00, 0xF1, 0x09, 0x00] : List Byte).length ∧ Params.default.longResponse = .fault) ∧
    (5 < ([0x02, 0x90, 0x00, 0xF1, 0x09, 0x00] : List Byte).length ∧ verifyCfg.longResponse = .acceptPrefix) ∧
    (([0x02, 0x90, 0x00, 0xF1, 0x09] : List Byte).length = 5 ∧ verifyCfg.checkCrcMode = .verify ∧
      crcOk [0x02, 0x90, 0x00, 0xF1, 0x09] = true ∧ crcOk [0x02, 0x90, 0x00, 0xF1, 0x08] = false ∧
      Params.default.checkCrcMode = .unimplemented) := by decide

theorem witness_ResponsesAreReturnedUnread :
    (reading Params.default ⟨.selectFile, some 5, false⟩ [.got 0 [0x02, 0x6A, 0x82, 0x93, 0x2F]]).xphase = .waitRead ∧
    (reading Params.default ⟨.selectFile, some 5, false⟩ [.got 0 [0x02, 0x6A, 0x82, 0x93, 0x2F]]).xlatch =
      some ⟨.selectFile, some ([0x02, 0x6A, 0x82, 0x93, 0x2F] : List Byte).length, false⟩ ∧
    verifyCfg.checkCrcMode = .verify ∧ crcOk [0x02, 0x6A, 0x82, 0x93, 0x2F] = true := by decide

theorem witness_AReturnedResponseHasTheLengthAskedFor :
    ∃ t, step (reading verifyCfg ⟨.selectFile, some 5, true⟩ [.got 0 [0x02, 0x90, 0x00, 0xF1, 0x09, 0x00]]) = .next t ∧
      t.reports = [] ++ [.result (.bytes [0x02, 0x90, 0x00, 0xF1, 0x09])] := ⟨_, rfl, by decide⟩

theorem witness_AConformingTransportRaisesNoLengthError :
    TransportConforms (reading verifyCfg ⟨.selectFile, some 5, true⟩ [.got 0 [0x02, 0x90, 0x00, 0xF1, 0x08]]) ∧
    ∃ t, step (reading verifyCfg ⟨.selectFile, some 5, true⟩ [.got 0 [0x02, 0x90, 0x00, 0xF1, 0x08]]) = .next t ∧
      t.reports = [] ++ [.protocolError .crcMismatch [0x02, 0x90, 0x00, 0xF1, 0x08]] := by
  refine ⟨?_, _, rfl, by decide⟩
  intro data rest l n h _ hl hn
  cases h
  cases hl
  cases hn
  rfl

theorem witness_ExpectedResponseLengths :
    (∃ t, exec (.readBinary 0x0000 0xFF 0x02 false) (pending [.wrote 0 8]) = .next t ∧ t.inputs = .wrote 0 8 :: []) ∧
    (∃ t, exec (.selectNfcT4App 0x02 true) (pending [.wrote 0 16]) = .next t ∧ t.inputs = .wrote 0 16 :: []) ∧
    (∃ t, exec (.selectFile 0x0001 0x02 true) (pending [.wrote 0 10]) = .next t ∧ t.inputs = .wrote 0 10 :: []) ∧
    (∃ t, exec .killRfSelectI2c (pending [.wrote 0 1]) = .next t ∧ t.inputs = .wrote 0 1 :: []) ∧
    (∃ t, exec .deselect (pending [.wrote 0 3]) = .next t ∧ t.inputs = .wrote 0 3 :: []) ∧
    (pending [.wrote 0 8]).xphase = .idle :=
  ⟨⟨_, rfl, rfl⟩, ⟨_, rfl, rfl⟩, ⟨_, rfl, rfl⟩, ⟨_, rfl, rfl⟩, ⟨_, rfl, rfl⟩, rfl⟩

/-- A reading operation with the shortest response, one with a CRC check that passes, `DESELECT` with a read (vector E10),
and the two operations that make no read. -/
theorem witness_ASuccessfulExchangeReturnsTheResponse :
    ((pending [.packet (encode (.readBinary 0 0 2 false)), .wrote 0 8, .got 0 [1, 2, 3, 4, 5]]).xphase = .idle ∧
      ([1, 2, 3, 4, 5] : List Byte).length = (0x00 : Byte).toNat + 5) ∧
    (verifyCfg.checkCrcMode = .verify ∧ crcOk [0x02, 0x90, 0x00, 0xF1, 0x09] = true ∧
      ([0x02, 0x90, 0x00, 0xF1, 0x09] : List Byte).length = 5) ∧
    (zeroReadCfg.deselectRead = .zeroLength ∧ ([] : List Byte).length = 0) ∧
    (pending [.packet (encode .killRfSelectI2c), .wrote 0 1]).xphase = .idle ∧
    ((pending [.packet (encode .deselect), .wrote 0 3]).xphase = .idle ∧
      (pending [.packet (encode .deselect), .wrote 0 3]).cfg.deselectRead = .none) := by decide

/-- The shortest and the longest prefix. -/
theorem witness_AFailedWriteMayReachTheTagInPart :
    ({ writing ⟨.deselect, none, false⟩ [] with transport := [TransportEvent.write 0x56 [0xC2, 0xE0, 0xB4]] } : State).transport =
      [] ++ [TransportEvent.write 0x56 [0xC2, 0xE0, 0xB4]] ∧
    (writing ⟨.deselect, none, false⟩ []).xphase = .waitWrite ∧
    (writing ⟨.deselect, none, false⟩ []).xlatch = some ⟨.deselect, none, false⟩ ∧
    ([] : List Byte) <+: [0xC2, 0xE0, 0xB4] ∧ ([0xC2, 0xE0, 0xB4] : List Byte) <+: [0xC2, 0xE0, 0xB4] ∧ (5 : Int) ≠ 0 := by
  decide

/-- One witness for each kind of error. -/
theorem witness_ErrorsEndTheExchangeAndMakeNoCall :
    (∃ t, step (pending [.packet (.command 0x20 none)]) = .next t ∧ t.reports = [] ++ [.refused (.reservedField 0x20)]) ∧
    (∃ t, step (pending [.packet (.command 0x2 none)]) = .next t ∧ t.reports = [] ++ [.usageFault .crcNotSeeded]) ∧
    (∃ t, step (writing ⟨.deselect, none, false⟩ [.wrote 1 0]) = .next t ∧ t.reports = [] ++ [.transportError .write 1]) ∧
    (∃ t, step (reading Params.default ⟨.selectFile, some 5, true⟩ [.got 0 []]) = .next t ∧
      t.reports = [] ++ [.protocolError .shortResponse []]) :=
  ⟨⟨_, rfl, by decide⟩, ⟨_, rfl, by decide⟩, ⟨_, rfl, by decide⟩, ⟨_, rfl, by decide⟩⟩

theorem witness_AHungCallIsNeverLeft :
    ((reading Params.default ⟨.selectFile, some 5, false⟩ [.packet (.command 0x8 none)]).xphase ≠ .idle ∧
      ∀ e ∈ (reading Params.default ⟨.selectFile, some 5, false⟩ [.packet (.command 0x8 none)]).inputs,
        ∃ p, e = .packet p) ∧
    ((writing ⟨.deselect, none, false⟩ [.reset]).xphase ≠ .idle ∧
      (writing ⟨.deselect, none, false⟩ [.reset]).inputs = .reset :: []) := by
  refine ⟨⟨by decide, ?_⟩, by decide⟩
  intro e he
  exact ⟨_, List.mem_singleton.1 he⟩

theorem witness_AHangDeliversNoOutcome :
    (writing ⟨.deselect, none, false⟩ [.packet (.command 0x0 none), .packet (.frame [])]).xphase ≠ .idle ∧
    ∀ e ∈ (writing ⟨.deselect, none, false⟩ [.packet (.command 0x0 none), .packet (.frame [])]).inputs, ∃ p, e = .packet p := by
  refine ⟨by decide, ?_⟩
  intro e he
  rcases List.mem_cons.1 he with rfl | he
  · exact ⟨_, rfl⟩
  · exact ⟨_, List.mem_singleton.1 he⟩

theorem witness_EveryCommandIsBusyDuringAnExchange :
    (writing ⟨.deselect, none, false⟩ [.packet (.command 0x9 none)]).xphase ≠ .idle ∧
    (writing ⟨.deselect, none, false⟩ [.packet (.command 0x9 none)]).inputs = .packet (.command 0x9 none) :: [] := by decide

theorem witness_ACommandIsAnsweredOrStartsAnExchange :
    (pending [.packet (.command 0x8 none)]).inputs = .packet (.command 0x8 none) :: [] := by decide

theorem witness_OperationsAreAcceptedInEveryOrder :
    ∃ s, performAll [(.deselect, [.wrote 0 3]), (.selectFile 0 0x02 false, [.wrote 7 0])] State.reset = .next s ∧
      s.xphase = .idle ∧ isProtocolOp (.selectFile 0 0x02 false) = true ∧
      inTagOrder .idle [.deselect, .selectFile 0 0x02 false, .selectFile 0 0x02 false] = false ∧
      pcbAlternates none [.deselect, .selectFile 0 0x02 false, .selectFile 0 0x02 false] = false := ⟨_, rfl, by decide⟩

theorem witness_ASeedingCallerGetsNoUsageFault :
    State.reset.xphase = .idle ∧ (State.reset.fcs = none ↔ State.reset.crcPhase = .unseeded) ∧
    (∀ i ∈ [Instr.crcStart, .crcUpdate 0x02, .crcFinalize, .crcCompute [], .crcStart], isCrcOp i = true) ∧
    seedsBeforeFolding State.reset.crcPhase [.crcStart, .crcUpdate 0x02, .crcFinalize, .crcCompute [], .crcStart] = true := by
  decide

/-- A word for each clause, with every field at its greatest value where the clause allows it. -/
theorem witness_CommandWordsAreCheckedInOrder :
    (0xFFFFFFFFFF : CmdWord).toNat = 15 + 2 ^ 4 * 1 + 2 ^ 5 * 7 + 2 ^ 8 * 255 + 2 ^ 16 * 65535 + 2 ^ 32 * 255 ∧
    (0xE8 : CmdWord).toNat = 8 + 2 ^ 4 * 0 + 2 ^ 5 * 7 + 2 ^ 8 * 0 + 2 ^ 16 * 0 + 2 ^ 32 * 0 ∧
    (0x18 : CmdWord).toNat = 8 + 2 ^ 4 * 1 + 2 ^ 5 * 0 + 2 ^ 8 * 0 + 2 ^ 16 * 0 + 2 ^ 32 * 0 ∧
    (0x3 : CmdWord).toNat = 3 + 2 ^ 4 * 0 + 2 ^ 5 * 0 + 2 ^ 8 * 0 + 2 ^ 16 * 0 + 2 ^ 32 * 0 ∧
    (0xFFFFFFFF17 : CmdWord).toNat = 7 + 2 ^ 4 * 1 + 2 ^ 5 * 0 + 2 ^ 8 * 255 + 2 ^ 16 * 65535 + 2 ^ 32 * 255 ∧
    (∃ x ∈ [256], 256 ≤ x) := by decide

theorem witness_ARefusedWordOnlyTellsTheReason :
    (pending [.packet (.command 0x3 none)]).xphase = .idle ∧
    (pending [.packet (.command 0x3 none)]).inputs = .packet (.command 0x3 none) :: [] ∧
    decode (.command 0x3 none) = .error (.refused .operandShape) := by decide

theorem witness_ReservedCodesAreRefusedWithTheirWord :
    (isReserved (.reservedOp9 0) = true ∧ isReserved (.reservedOpAB 0 1) = true ∧ isReserved (.reservedOpCF 0 3) = true ∧
      State.reset.xphase = .idle) ∧
    ((pending [.packet (.command 0xE9 (some []))]).inputs = .packet (.command 0xE9 (some [])) :: [] ∧
      9 ≤ (0xE9 : CmdWord).toNat % 16) := by decide

theorem witness_EncodeOfDecode :
    decode (.command 0x3 (some [255])) = .ok (.crcCompute [0xFF]) ∧ decode (.command 0xF (some [0])) = .ok (.reservedOpCF 0 3) ∧
    decode (.frame [0x52]) = .ok .frameKillRfSelectI2c := by decide

theorem witness_TheBlockWritesOnlyItsFiveFrames :
    (([] : List Byte) ≠ frameKill ∧ ([] : List Byte) ≠ frameDeselect ∧ (∀ pcb : Byte, [] ≠ frameSelectApp pcb) ∧
      (∀ (fileId : Half) (pcb : Byte), [] ≠ frameSelectFile fileId pcb) ∧
      (∀ (offset : Half) (length pcb : Byte), [] ≠ frameReadBinary offset length pcb)) ∧
    ∃ t, step (pending [.packet (.command 0x4 none)]) = .next t ∧
      t.transport = [] ++ [TransportEvent.write 0x56 [0x52]] :=
  ⟨⟨by decide, by decide, nofun, nofun, nofun⟩, _, rfl, by decide⟩

theorem witness_TheMonitorClassifiesCapturedFrames :
    (pending [.packet (.frame [])]).inputs = .packet (.frame []) :: [] := by decide

theorem witness_ResponseViewsPartitionTheResponse :
    5 ≤ ([0x02, 0x90, 0x00, 0xF1, 0x09] : List Byte).length := by decide

theorem witness_AStepRunsTheDecodedInstruction :
    ((pending [.packet (.command 0x201 none)]).inputs = .packet (.command 0x201 none) :: [] ∧
      decode (.command 0x201 none) = .ok (.crcUpdate 0x02)) ∧
    decodeTableWord 8 0x52 = some .frameKillRfSelectI2c := by decide

theorem witness_ResetLeavesTheAccumulatorWithoutAValue :
    ({ crcState 0x0001 .finalized with inputs := [.reset] } : State).inputs = .reset :: [] ∧
    (crcState 0x0001 .finalized).xphase = .idle ∧
    (writing ⟨.deselect, none, false⟩ [.reset]).xphase ≠ .idle := by decide

/-- The register invariant holds in the reset state and in a block that waits for a read, and a step leaves each. -/
theorem witness_EveryStepKeepsTheRegisterInvariant :
    (Inv (pending [.packet (.command 0x4 none)]) ∧ ∃ t, step (pending [.packet (.command 0x4 none)]) = .next t) ∧
    (Inv (reading Params.default ⟨.selectFile, some 5, false⟩ [.got 0 []]) ∧
      ∃ t, step (reading Params.default ⟨.selectFile, some 5, false⟩ [.got 0 []]) = .next t) := by
  refine ⟨⟨⟨by decide, by decide, ?_, ?_⟩, _, rfl⟩, ⟨⟨by decide, by decide, ?_, ?_⟩, _, rfl⟩⟩
  · exact fun _ h => nomatch h
  · exact fun _ h => nomatch h
  · intro l h
    cases h
    rfl
  · intro l h _
    cases h
    exact nofun

/-- The conversation is legal in the reset state and after a kill frame has been handed over, and a step leaves each. -/
theorem witness_EveryStepKeepsTheConversationLegal :
    (Conversation (pending [.packet (.command 0x4 none)]) ∧ ∃ t, step (pending [.packet (.command 0x4 none)]) = .next t) ∧
    (Conversation { writing ⟨.killRfSelectI2c, none, false⟩ [.wrote 0 1] with
        transport := [TransportEvent.write 0x56 [0x52]] } ∧
      ∃ t, step { writing ⟨.killRfSelectI2c, none, false⟩ [.wrote 0 1] with
        transport := [TransportEvent.write 0x56 [0x52]] } = .next t) :=
  ⟨⟨rfl, _, rfl⟩, ⟨rfl, _, rfl⟩⟩

theorem witness_OnlyImpossibleEventsStopTheMachine :
    (Inv (pending [.wrote 0 0]) ∧ (pending [.wrote 0 0]).inputs = .wrote 0 0 :: []) ∧
    (Inv (pending [.got 0 []]) ∧ (pending [.got 0 []]).inputs = .got 0 [] :: []) ∧
    (pending [.reset]).inputs = .reset :: [] ∧ State.reset.inputs = [] :=
  ⟨⟨⟨by decide, by decide, nofun, nofun⟩, rfl⟩, ⟨⟨by decide, by decide, nofun, nofun⟩, rfl⟩, rfl, rfl⟩

theorem witness_ParametersNeverChange : ∃ t, step (pending [.reset]) = .next t := ⟨_, rfl⟩

end Sys2Proof.Tests
end

section
/-! PROOFS. Byte order (20_memory.md R49, R50): what `lo`, `hi`, `close` and `CRC_FINALIZE` give, and O23. -/

namespace Sys2Proof.Machine

theorem lo_toNat (v : Half) : (lo v).toNat = v.toNat % 256 := by
  simp [lo, BitVec.extractLsb'_toNat]

theorem hi_toNat (v : Half) : (hi v).toNat = v.toNat / 256 := by
  have hv : v.toNat / 256 < 256 := by omega
  simp [hi, BitVec.extractLsb'_toNat, Nat.shiftRight_eq_div_pow, Nat.mod_eq_of_lt hv]

/-- `c0`, `c1` are the CRC of `body` in the order of R49: low byte, then high byte. -/
theorem close_low_byte_first (body : List Byte) :
    ∃ c0 c1 : Byte, close body = body ++ [c0, c1] ∧
      c0.toNat = (crc16 body).toNat % 256 ∧ c1.toNat = (crc16 body).toNat / 256 :=
  ⟨lo (crc16 body), hi (crc16 body), rfl, lo_toNat _, hi_toNat _⟩

/-- `CRC_FINALIZE` where it does not fault (40_crc16.md R95). -/
theorem crcFinalizeWork_of_seeded {s : State} {r : Half} (hr : s.fcs = some r) (hp : s.crcPhase ≠ .unseeded) :
    crcFinalizeWork s = (s.setCrcPhase .finalized).deliver (.result (.pair (lo r) (hi r))) := by
  simp [crcFinalizeWork, hr, hp]

theorem exec_crcFinalize_of_seeded {s : State} {r : Half} (hx : s.xphase = .idle) (hr : s.fcs = some r)
    (hp : s.crcPhase ≠ .unseeded) :
    exec .crcFinalize s = .next ((s.setCrcPhase .finalized).deliver (.result (.pair (lo r) (hi r)))) := by
  rw [← crcFinalizeWork_of_seeded hr hp]
  exact whenIdle_of_idle hx _

/-- Settles O23: every closed frame is a body whose operands are `hi`, `lo`, followed by the body's CRC as `lo`, `hi`. -/
theorem crcIsLittleEndianAndOperandsAreBigEndian : Obligations.CrcIsLittleEndianAndOperandsAreBigEndian := by
  unfold Obligations.CrcIsLittleEndianAndOperandsAreBigEndian
  refine ⟨fun v pcb => ?selectFile, fun v length pcb => ?readBinary, fun pcb => ?selectApp, ?deselect,
    fun s r hx hr hp => ?finalize⟩
  case selectFile =>
    obtain ⟨c0, c1, hclose, hc0, hc1⟩ := close_low_byte_first (bodySelectFile v pcb)
    exact ⟨hi v, lo v, c0, c1, hclose, hi_toNat v, lo_toNat v, hc0, hc1⟩
  case readBinary =>
    obtain ⟨c0, c1, hclose, hc0, hc1⟩ := close_low_byte_first (bodyReadBinary v length pcb)
    exact ⟨hi v, lo v, c0, c1, hclose, hi_toNat v, lo_toNat v, hc0, hc1⟩
  case selectApp => exact ⟨bodySelectApp pcb, close_low_byte_first _⟩
  case deselect => exact close_low_byte_first [0xC2]
  case finalize =>
    exact ⟨_, lo r, hi r, exec_crcFinalize_of_seeded hx hr hp, rfl, lo_toNat r, hi_toNat r⟩

end Sys2Proof.Machine
end

section
/-! PROOFS. The frames and the exchanges of the protocol operations (30_encoding.md R79 to R83): what starting an
exchange and a successful write do, what `classify` tells apart, which frames a step can write, and O22, O31, O49. -/

namespace Sys2Proof.Machine

open Safety

variable {s t : State} {i : Instr} {l : Latch} {f : List Byte}

/-! ### Starting an exchange -/

theorem exists_exchangeOf_of_isProtocolOp (cfg : Params) (hi : isProtocolOp i = true) :
    ∃ l f, exchangeOf cfg i = some (l, f) := by
  cases i with
  | killRfSelectI2c => exact ⟨_, _, rfl⟩
  | selectNfcT4App pcb chk => exact ⟨_, _, rfl⟩
  | selectFile fileId pcb chk => exact ⟨_, _, rfl⟩
  | readBinary offset length pcb chk => exact ⟨_, _, rfl⟩
  | deselect => exact ⟨_, _, rfl⟩
  | _ => cases hi

/-- An idle block hands the frame of `exchangeOf` to the transport and does nothing else. -/
theorem exec_of_exchangeOf (hs : s.xphase = .idle) (hx : exchangeOf s.cfg i = some (l, f)) :
    exec i s = .next (s.beginExchange l f) := by
  cases i <;> cases hx <;> exact whenIdle_of_idle hs _

/-- The inversion of `exec` for a protocol operation on an idle block. -/
theorem exec_protocolOp_cases (hi : isProtocolOp i = true) (hs : s.xphase = .idle) (h : exec i s = .next t) :
    ∃ l f, exchangeOf s.cfg i = some (l, f) ∧ t = s.beginExchange l f := by
  obtain ⟨l, f, hx⟩ := exists_exchangeOf_of_isProtocolOp s.cfg hi
  rw [exec_of_exchangeOf hs hx] at h
  exact ⟨l, f, hx, (Host.Outcome.next.inj h).symm⟩

/-- Only the kill frame goes without a CRC (R79). -/
theorem exchangeOf_frame_closed {cfg : Params} (hx : exchangeOf cfg i = some (l, f)) (hk : i ≠ .killRfSelectI2c) :
    ∃ body, f = close body := by
  cases i <;> cases hx
  case killRfSelectI2c => exact absurd rfl hk
  case selectNfcT4App pcb chk => exact ⟨bodySelectApp pcb, rfl⟩
  case selectFile fileId pcb chk => exact ⟨bodySelectFile fileId pcb, rfl⟩
  case readBinary offset length pcb chk => exact ⟨bodyReadBinary offset length pcb, rfl⟩
  case deselect => exact ⟨[0xC2], rfl⟩

/-- Settles O22: the one frame written is that of `exchangeOf`, which is a closed body for all but the kill operation. -/
theorem everyFrameButKillIsClosedByItsCrc : Obligations.EveryFrameButKillIsClosedByItsCrc := by
  unfold Obligations.EveryFrameButKillIsClosedByItsCrc
  intro i s t addr f hi hs h ht
  obtain ⟨l, f', hx, rfl⟩ := exec_protocolOp_cases hi hs h
  obtain ⟨-, rfl⟩ : s.cfg.tagAddr = addr ∧ f' = f := by simpa using ht
  refine ⟨?kill, fun hk => ?closed⟩
  case kill =>
    rintro rfl
    cases hx
    rfl
  case closed =>
    obtain ⟨body, rfl⟩ := exchangeOf_frame_closed hx hk
    exact ⟨body, close_low_byte_first body⟩

/-! ### The step on a successful write -/

/-- The calls that follow a successful write: a read, where the latch holds a read length (42_exchange.md R113). -/
def readsAfterWrite (cfg : Params) (l : Latch) : List TransportEvent :=
  (l.n.map (TransportEvent.read cfg.tagAddr)).toList

theorem step_wrote_zero {reached : Nat} {rest : List Input} (hp : s.xphase = .waitWrite) (hl : s.xlatch = some l)
    (hi : s.inputs = .wrote 0 reached :: rest) :
    ∃ u, step s = .next u ∧
      u.transport = s.transport ++ .wrote 0 reached :: readsAfterWrite s.cfg l ∧ (l.n = none → u.xphase = .idle) := by
  rw [step_cons hi]
  cases hn : l.n with
  | none =>
    exact ⟨((s.withInputs rest).record (.wrote 0 reached)).endExchange.deliver (.result (.bytes [])),
      by simp [onInput, onWrote, hp, hl, hn, finish_eq], by simp [readsAfterWrite, hn], by simp⟩
  | some n =>
    exact ⟨((s.withInputs rest).record (.wrote 0 reached)).beginRead n,
      by simp [onInput, onWrote, hp, hl, hn], by simp [readsAfterWrite, hn], nofun⟩

/-- Settles O31: the read after a successful write is that of the latch, and `exchangeOf` gives each operation's latch. -/
theorem expectedResponseLengths : Obligations.ExpectedResponseLengths := by
  unfold Obligations.ExpectedResponseLengths
  intro i s t reached rest hi hs h hin
  obtain ⟨l, f, hx, rfl⟩ := exec_protocolOp_cases hi hs h
  obtain ⟨u, hu, htr, hidle⟩ := step_wrote_zero (l := l) rfl rfl hin
  refine ⟨u, hu, ?selectApp, ?selectFile, ?readBinary, ?kill, ?deselect⟩
  case selectApp =>
    rintro ⟨pcb, chk, rfl⟩
    cases hx
    exact htr
  case selectFile =>
    rintro ⟨fileId, pcb, chk, rfl⟩
    cases hx
    exact htr
  case readBinary =>
    rintro offset length pcb chk rfl
    cases hx
    exact htr
  case kill =>
    rintro rfl
    cases hx
    exact ⟨htr, hidle rfl⟩
  case deselect =>
    rintro rfl
    cases hx
    cases hd : s.cfg.deselectRead with
    | none =>
      have hn : deselectReadLength s.cfg = none := by simp [deselectReadLength, hd]
      exact .inl ⟨by simpa [readsAfterWrite, hn] using htr, hidle hn⟩
    | zeroLength =>
      have hn : deselectReadLength s.cfg = some 0 := by simp [deselectReadLength, hd]
      exact .inr (by simpa [readsAfterWrite, hn] using htr)

end Sys2Proof.Machine
end

section
/-! PROOFS. What `classify` tells apart (30_encoding.md R80 to R82), which frames a step can write, and O49. -/

namespace Sys2Proof.Machine

/-! ### Slices -/

theorem slice_eq_take_drop (r : List Byte) (i j : Nat) : slice r i j = (r.drop i).take (j - i) := List.drop_take

theorem slice_append_slice {r : List Byte} {i j k : Nat} (hij : i ≤ j) (hjk : j ≤ k) :
    slice r i j ++ slice r j k = slice r i k := by
  have hlen : k - i = (j - i) + (k - j) := by omega
  have hmid : i + (j - i) = j := by omega
  rw [slice_eq_take_drop r i k, hlen, List.take_add, List.drop_drop, hmid, ← slice_eq_take_drop, ← slice_eq_take_drop]

theorem slice_eq_byteAt_cons {r : List Byte} {i j : Nat} (hi : i < r.length) (hij : i < j) :
    slice r i j = byteAt r i :: slice r (i + 1) j := by
  have hlen : j - i = (j - (i + 1)) + 1 := by omega
  rw [slice_eq_take_drop, List.drop_eq_getElem_cons hi, hlen, List.take_succ_cons, ← slice_eq_take_drop]
  simp [byteAt, hi]

@[simp] theorem slice_self (r : List Byte) (i : Nat) : slice r i i = [] := by simp [slice]

@[simp] theorem slice_zero_length (r : List Byte) : slice r 0 r.length = r := by simp [slice]

/-- A sequence whose last two bytes are the CRC of those before them is a closed one. -/
theorem eq_close_of_slice_eq_crcBytes {r : List Byte} {k : Nat} (hlen : r.length = k + 2)
    (hcrc : slice r k (k + 2) = crcBytes (slice r 0 k)) : r = close (slice r 0 k) := by
  rw [close, ← hcrc, slice_append_slice (Nat.zero_le k) (Nat.le_add_right k 2), ← hlen, slice_zero_length]

/-! ### The five frames are named -/

@[simp] theorem classify_frameKill : classify frameKill = .killRfSelectI2c := rfl

@[simp] theorem classify_frameDeselect : classify frameDeselect = .deselect := by decide

@[simp] theorem classify_frameSelectApp (pcb : Byte) : classify (frameSelectApp pcb) = .selectNfcT4App pcb := by
  simp [classify, frameSelectApp, bodySelectApp, Config.t4Aid, close, crcBytes, slice, byteAt]

@[simp] theorem classify_frameSelectFile (fileId : Half) (pcb : Byte) :
    classify (frameSelectFile fileId pcb) = .selectFile pcb fileId := by
  simp [classify, frameSelectFile, bodySelectFile, close, crcBytes, slice, byteAt]

@[simp] theorem classify_frameReadBinary (offset : Half) (length pcb : Byte) :
    classify (frameReadBinary offset length pcb) = .readBinary pcb offset length := by
  simp [classify, frameReadBinary, bodyReadBinary, close, crcBytes, slice, byteAt]

/-! ### Nothing else is named -/

theorem eq_frameDeselect_of_slices {r : List Byte} (hlen : r.length = 3) (h0 : byteAt r 0 = 0xC2)
    (hcrc : slice r 1 3 = crcBytes (slice r 0 1)) : r = frameDeselect := by
  have hbody : slice r 0 1 = [0xC2] := by simp [slice_eq_byteAt_cons, hlen, h0]
  rw [eq_close_of_slice_eq_crcBytes (k := 1) hlen hcrc, hbody, frameDeselect]

theorem eq_frameSelectApp_of_slices {r : List Byte} (hlen : r.length = 16)
    (hfixed : slice r 1 14 = [0x00, 0xA4, 0x04, 0x00, 0x07, 0xD2, 0x76, 0x00, 0x00, 0x85, 0x01, 0x01, 0x00])
    (hcrc : slice r 14 16 = crcBytes (slice r 0 14)) : r = frameSelectApp (byteAt r 0) := by
  have hbody : slice r 0 14 = bodySelectApp (byteAt r 0) := by
    rw [slice_eq_byteAt_cons (by omega) (by decide), hfixed]
    rfl
  rw [frameSelectApp, ← hbody]
  exact eq_close_of_slice_eq_crcBytes hlen hcrc

theorem eq_frameSelectFile_of_slices {r : List Byte} (hlen : r.length = 10)
    (hfixed : slice r 1 6 = [0x00, 0xA4, 0x00, 0x0C, 0x02])
    (hcrc : slice r 8 10 = crcBytes (slice r 0 8)) :
    r = frameSelectFile (join (byteAt r 6) (byteAt r 7)) (byteAt r 0) := by
  have hbody : slice r 0 8 = bodySelectFile (join (byteAt r 6) (byteAt r 7)) (byteAt r 0) := by
    rw [slice_eq_byteAt_cons (by omega) (by decide), ← slice_append_slice (j := 6) (by decide) (by decide), hfixed]
    simp [bodySelectFile, slice_eq_byteAt_cons, hlen]
  rw [frameSelectFile, ← hbody]
  exact eq_close_of_slice_eq_crcBytes hlen hcrc

theorem eq_frameReadBinary_of_slices {r : List Byte} (hlen : r.length = 8) (hfixed : slice r 1 3 = [0x00, 0xB0])
    (hcrc : slice r 6 8 = crcBytes (slice r 0 6)) :
    r = frameReadBinary (join (byteAt r 3) (byteAt r 4)) (byteAt r 5) (byteAt r 0) := by
  have hbody : slice r 0 6 = bodyReadBinary (join (byteAt r 3) (byteAt r 4)) (byteAt r 5) (byteAt r 0) := by
    rw [slice_eq_byteAt_cons (by omega) (by decide), ← slice_append_slice (j := 3) (by decide) (by decide), hfixed]
    simp [bodyReadBinary, slice_eq_byteAt_cons, hlen]
  rw [frameReadBinary, ← hbody]
  exact eq_close_of_slice_eq_crcBytes hlen hcrc

theorem classify_eq_notABlockFrame {r : List Byte} (hKill : r ≠ frameKill) (hDeselect : r ≠ frameDeselect)
    (hApp : ∀ pcb, r ≠ frameSelectApp pcb) (hFile : ∀ fileId pcb, r ≠ frameSelectFile fileId pcb)
    (hRead : ∀ offset length pcb, r ≠ frameReadBinary offset length pcb) : classify r = .notABlockFrame := by
  unfold classify
  split_ifs with kill deselect app file read
  · exact absurd kill hKill
  · obtain ⟨hlen, h0, hcrc⟩ := deselect
    exact absurd (eq_frameDeselect_of_slices hlen h0 hcrc) hDeselect
  · obtain ⟨hlen, hfixed, hcrc⟩ := app
    exact absurd (eq_frameSelectApp_of_slices hlen hfixed hcrc) (hApp _)
  · obtain ⟨hlen, hfixed, hcrc⟩ := file
    exact absurd (eq_frameSelectFile_of_slices hlen hfixed hcrc) (hFile _ _)
  · obtain ⟨hlen, hfixed, hcrc⟩ := read
    exact absurd (eq_frameReadBinary_of_slices hlen hfixed hcrc) (hRead _ _ _)
  · rfl

/-! ### The frames a step writes -/

variable {s t : State} {i : Instr} {f : List Byte}

/-- From `s` to `t` the transport log grows, and every frame written in between is an operation's, sent to the tag. -/
def WritesOnlyOperationFrames (s t : State) : Prop :=
  ∃ new, t.transport = s.transport ++ new ∧
    ∀ addr f, TransportEvent.write addr f ∈ new → addr = s.cfg.tagAddr ∧ ∃ i l, exchangeOf s.cfg i = some (l, f)

theorem writesOnlyOperationFrames_of_eq (h : t.transport = s.transport) : WritesOnlyOperationFrames s t :=
  ⟨[], by simpa using h, by simp⟩

theorem ExecEffect.writesOnlyOperationFrames (e : ExecEffect i s t) : WritesOnlyOperationFrames s t := by
  cases e with
  | exchange l f hs hx =>
    refine ⟨[.write s.cfg.tagAddr f], rfl, fun addr g hg => ?_⟩
    obtain ⟨rfl, rfl⟩ : addr = s.cfg.tagAddr ∧ g = f := by simpa using hg
    exact ⟨rfl, i, l, hx⟩
  | _ => exact writesOnlyOperationFrames_of_eq rfl

theorem PacketEffect.writesOnlyOperationFrames {p : Packet} (e : PacketEffect p s t) :
    WritesOnlyOperationFrames s t := by
  cases e with
  | ran i hd e => exact e.writesOnlyOperationFrames
  | _ => exact writesOnlyOperationFrames_of_eq rfl

theorem onWrote_writesOnlyOperationFrames {st : Int} {reached : Nat} (h : onWrote st reached s = .next t) :
    WritesOnlyOperationFrames s t := by
  obtain ⟨l, -, -, ⟨-, rfl⟩ | ⟨-, -, rfl⟩ | ⟨n, -, -, rfl⟩⟩ := onWrote_cases h
  · exact ⟨[.wrote st reached], rfl, by simp⟩
  · exact ⟨[.wrote st reached], rfl, by simp⟩
  · exact ⟨[.wrote st reached, .read s.cfg.tagAddr n], by simp, by simp⟩

theorem onGot_writesOnlyOperationFrames {st : Int} {data : List Byte} (h : onGot st data s = .next t) :
    WritesOnlyOperationFrames s t := by
  obtain ⟨l, n, -, -, -, rfl⟩ := onGot_cases h
  exact ⟨[.got st data], rfl, by simp⟩

theorem step_writesOnlyOperationFrames (h : step s = .next t) : WritesOnlyOperationFrames s t := by
  cases step_cases h with
  | stays hi => exact writesOnlyOperationFrames_of_eq rfl
  | packet p rest hi e => exact e.writesOnlyOperationFrames
  | wrote st reached rest hi e => exact onWrote_writesOnlyOperationFrames (s := s.withInputs rest) e
  | got st data rest hi e => exact onGot_writesOnlyOperationFrames (s := s.withInputs rest) e
  | reset rest hi hs => exact writesOnlyOperationFrames_of_eq rfl

theorem classify_exchangeOf_frame {cfg : Params} {l : Latch} (hx : exchangeOf cfg i = some (l, f)) :
    classify f ≠ .notABlockFrame := by
  cases i <;> cases hx <;> simp

/-- Settles O49: the builders' frames are named one by one, a named sequence is rebuilt from the slices `classify` reads,
and a step writes only the frame of an operation. -/
theorem theBlockWritesOnlyItsFiveFrames : Obligations.TheBlockWritesOnlyItsFiveFrames := by
  unfold Obligations.TheBlockWritesOnlyItsFiveFrames
  refine ⟨⟨classify_frameKill, classify_frameDeselect, classify_frameSelectApp, classify_frameSelectFile,
    classify_frameReadBinary⟩, fun f => classify_eq_notABlockFrame, fun s t addr f h ht => ?_⟩
  obtain ⟨new, hnew, hframes⟩ := step_writesOnlyOperationFrames h
  have hf : new = [.write addr f] := List.append_cancel_left (hnew.symm.trans ht)
  obtain ⟨-, i, l, hx⟩ := hframes addr f (by simp [hf])
  exact classify_exchangeOf_frame hx

end Sys2Proof.Machine
end

section
/-! PROOFS. The CRC16 Engine over a buffer (40_crc16.md R93 to R98): the operations of an idle block, their run over the
expansion of `CRC_COMPUTE`, and O7. -/

namespace Sys2Proof.Machine

open Safety

variable {s t : State} {i : Instr} {r : Half}

theorem exec_crcStart_of_idle (hx : s.xphase = .idle) :
    exec .crcStart s = .next ((s.setCrc Config.crcSeed .accumulating).deliver (.result .unit)) :=
  whenIdle_of_idle hx _

/-- `CRC_UPDATE` where it folds without asking for the parameter `POST_FINALIZE_UPDATE` (R94). -/
theorem crcUpdateWork_of_accumulating {b : Byte} (hp : s.crcPhase = .accumulating) (hr : s.fcs = some r) :
    crcUpdateWork b s = (s.setCrc (crcStep r b) .accumulating).deliver (.result (.register (crcStep r b))) := by
  simp [crcUpdateWork, hp, hr]

theorem exec_crcUpdate_of_accumulating {b : Byte} (hx : s.xphase = .idle) (hp : s.crcPhase = .accumulating)
    (hr : s.fcs = some r) :
    exec (.crcUpdate b) s =
      .next ((s.setCrc (crcStep r b) .accumulating).deliver (.result (.register (crcStep r b)))) := by
  rw [← crcUpdateWork_of_accumulating hp hr]
  exact whenIdle_of_idle hx _

theorem exec_crcCompute_of_idle {buf : List Byte} (hx : s.xphase = .idle) :
    exec (.crcCompute buf) s =
      .next ((s.setCrc (crc16 buf) .finalized).deliver (.result (.pair (lo (crc16 buf)) (hi (crc16 buf))))) :=
  whenIdle_of_idle hx _

theorem execAll_cons_of_next {is : List Instr} (h : exec i s = .next t) : execAll (i :: is) s = execAll is t := by
  simp [execAll, h]

/-- The updates over a buffer fold it into the register, whatever is issued after them. -/
theorem execAll_crcUpdates_append (buf : List Byte) (is : List Instr) (hx : s.xphase = .idle)
    (hp : s.crcPhase = .accumulating) (hr : s.fcs = some r) :
    ∃ t, execAll (buf.map Instr.crcUpdate ++ is) s = execAll is t ∧
      t.xphase = .idle ∧ t.crcPhase = .accumulating ∧ t.fcs = some (crcFold r buf) := by
  induction buf generalizing s r with
  | nil => exact ⟨s, rfl, hx, hp, hr⟩
  | cons b bs ih =>
    rw [List.map_cons, List.cons_append, execAll_cons_of_next (exec_crcUpdate_of_accumulating hx hp hr)]
    exact ih hx rfl rfl

/-- The expansion of `CRC_COMPUTE` last returns the pair of the buffer's CRC. -/
theorem execAll_computeExpansion (buf : List Byte) (hx : s.xphase = .idle) :
    ∃ u, execAll (computeExpansion buf) s = .next u ∧
      u.reports.getLast? = some (.result (.pair (lo (crc16 buf)) (hi (crc16 buf)))) := by
  rw [computeExpansion, execAll_cons_of_next (exec_crcStart_of_idle hx)]
  obtain ⟨t, hrun, htx, htp, htr⟩ := execAll_crcUpdates_append (r := Config.crcSeed) buf [.crcFinalize]
    (s := (s.setCrc Config.crcSeed .accumulating).deliver (.result .unit)) hx rfl rfl
  have hseeded : t.crcPhase ≠ .unseeded := by simp [htp]
  rw [hrun, execAll_cons_of_next (exec_crcFinalize_of_seeded htx htr hseeded)]
  exact ⟨_, rfl, List.getLast?_concat⟩

/-- Settles O7: both forms return the two bytes of `crc16 buf`, which names no state. -/
theorem crcOfABufferIsIdempotent : Obligations.CrcOfABufferIsIdempotent := by
  unfold Obligations.CrcOfABufferIsIdempotent
  intro buf
  refine ⟨lo (crc16 buf), hi (crc16 buf), fun s hx => ⟨?compute, ?expansion⟩⟩
  case compute => exact ⟨_, exec_crcCompute_of_idle hx, rfl⟩
  case expansion => exact execAll_computeExpansion buf hx

end Sys2Proof.Machine
end

section
/-! PROOFS. Isolation of the caller's accumulator from the protocol operations (40_crc16.md R102), and O25. -/

namespace Sys2Proof.Machine

open Safety

variable {s t : State} {i : Instr} {l : Latch} {f : List Byte}

/-! ### Independence of the accumulator -/

/-- The state with another accumulator. -/
def State.withAccumulator (s : State) (v : Option Half) (p : CrcPhase) : State := { s with fcs := v, crcPhase := p }

/-- `work` takes the same step whatever the accumulator holds, and carries it along. -/
def IgnoresAccumulator (work : State → Result) : Prop :=
  ∀ (s t : State) (v : Option Half) (p : CrcPhase), work s = .next t →
    work (s.withAccumulator v p) = .next (t.withAccumulator v p)

/-- What carries every accumulator along leaves the one that is there. -/
theorem IgnoresAccumulator.keeps {work : State → Result} (hw : IgnoresAccumulator work) (h : work s = .next t) :
    t.fcs = s.fcs ∧ t.crcPhase = s.crcPhase := by
  have hself : .next t = Host.Outcome.next (t.withAccumulator s.fcs s.crcPhase) := h.symm.trans (hw s t _ _ h)
  have ht : t = t.withAccumulator s.fcs s.crcPhase := Host.Outcome.next.inj hself
  rw [ht]
  exact ⟨rfl, rfl⟩

/-! ### The operation -/

/-- During an exchange a protocol operation is refused (60_exceptions.md R135). -/
theorem exec_of_exchangeOf_of_busy (hs : s.xphase ≠ .idle) (hx : exchangeOf s.cfg i = some (l, f)) :
    exec i s = .next (s.deliver (.refused .busy)) := by
  cases i <;> cases hx <;> exact whenIdle_of_busy hs _

theorem exec_protocolOp_ignoresAccumulator (hi : isProtocolOp i = true) : IgnoresAccumulator (exec i) := by
  intro s t v p h
  obtain ⟨l, f, hx⟩ := exists_exchangeOf_of_isProtocolOp s.cfg hi
  by_cases hs : s.xphase = .idle
  · obtain rfl := Host.Outcome.next.inj ((exec_of_exchangeOf hs hx).symm.trans h)
    exact exec_of_exchangeOf (s := s.withAccumulator v p) hs hx
  · obtain rfl := Host.Outcome.next.inj ((exec_of_exchangeOf_of_busy hs hx).symm.trans h)
    exact exec_of_exchangeOf_of_busy (s := s.withAccumulator v p) hs hx

/-! ### The answers -/

theorem onWrote_of_status_ne_zero {st : Int} {reached : Nat} (hp : s.xphase = .waitWrite) (hl : s.xlatch = some l)
    (hst : st ≠ 0) :
    onWrote st reached s = .next ((s.record (.wrote st reached)).endExchange.deliver (.transportError .write st)) := by
  simp [onWrote, hp, hl, hst, finish_eq]

theorem onWrote_zero_of_no_read {reached : Nat} (hp : s.xphase = .waitWrite) (hl : s.xlatch = some l)
    (hn : l.n = none) :
    onWrote 0 reached s = .next ((s.record (.wrote 0 reached)).endExchange.deliver (.result (.bytes []))) := by
  simp [onWrote, hp, hl, hn, finish_eq]

theorem onWrote_zero_of_read {reached n : Nat} (hp : s.xphase = .waitWrite) (hl : s.xlatch = some l)
    (hn : l.n = some n) : onWrote 0 reached s = .next ((s.record (.wrote 0 reached)).beginRead n) := by
  simp [onWrote, hp, hl, hn]

theorem onGot_of_read {st : Int} {data : List Byte} {n : Nat} (hp : s.xphase = .waitRead) (hl : s.xlatch = some l)
    (hn : l.n = some n) :
    onGot st data s =
      .next ((s.record (.got st data)).endExchange.deliver (responseReport s.cfg n l.chk st data)) := by
  simp [onGot, hp, hl, hn, finish_eq]

theorem onWrote_ignoresAccumulator (st : Int) (reached : Nat) : IgnoresAccumulator (onWrote st reached) := by
  intro s t v p h
  obtain ⟨l, hp, hl, ⟨hst, rfl⟩ | ⟨rfl, hn, rfl⟩ | ⟨n, rfl, hn, rfl⟩⟩ := onWrote_cases h
  · exact onWrote_of_status_ne_zero (s := s.withAccumulator v p) hp hl hst
  · exact onWrote_zero_of_no_read (s := s.withAccumulator v p) hp hl hn
  · exact onWrote_zero_of_read (s := s.withAccumulator v p) hp hl hn

theorem onGot_ignoresAccumulator (st : Int) (data : List Byte) : IgnoresAccumulator (onGot st data) := by
  intro s t v p h
  obtain ⟨l, n, hp, hl, hn, rfl⟩ := onGot_cases h
  exact onGot_of_read (s := s.withAccumulator v p) hp hl hn

/-- A step that takes an event whose handling ignores the accumulator ignores it and leaves it. -/
theorem step_of_ignoresAccumulator {e : Input} {rest : List Input} (he : IgnoresAccumulator (onInput e))
    (hin : s.inputs = e :: rest) (h : step s = .next t) (v : Option Half) (p : CrcPhase) :
    t.fcs = s.fcs ∧ t.crcPhase = s.crcPhase ∧ step (s.withAccumulator v p) = .next (t.withAccumulator v p) := by
  rw [step_cons hin] at h
  obtain ⟨hfcs, hphase⟩ := he.keeps h
  refine ⟨hfcs, hphase, ?_⟩
  rw [step_cons (s := s.withAccumulator v p) hin]
  exact he _ _ v p h

/-- Settles O25: the operation's step and the handling of each answer ignore the accumulator, and so keep it. -/
theorem protocolOperationsDoNotDisturbTheAccumulator :
    Obligations.ProtocolOperationsDoNotDisturbTheAccumulator := by
  unfold Obligations.ProtocolOperationsDoNotDisturbTheAccumulator
  refine ⟨fun i s t v p hi h => ?operation, fun s t v p rest hin h => ?answer⟩
  case operation =>
    have hexec := exec_protocolOp_ignoresAccumulator hi
    obtain ⟨hfcs, hphase⟩ := hexec.keeps h
    exact ⟨hfcs, hphase, hexec s t v p h⟩
  case answer =>
    obtain ⟨st, reached, hin⟩ | ⟨st, data, hin⟩ := hin
    · exact step_of_ignoresAccumulator (e := .wrote st reached) (onWrote_ignoresAccumulator st reached) hin h v p
    · exact step_of_ignoresAccumulator (e := .got st data) (onGot_ignoresAccumulator st data) hin h v p

end Sys2Proof.Machine
end

section
/-! PROOFS. Independence of the frames from the state of the block (41_frame_assembly.md R110), and O21. -/

namespace Sys2Proof.Machine

open Safety

variable {i : Instr} {l : Latch} {f : List Byte}

/-- The parameters can change an operation's latch (`DESELECT_READ`, R109), never its frame. -/
theorem exchangeOf_same_frame {cfg : Params} (hx : exchangeOf cfg i = some (l, f)) (cfg' : Params) :
    ∃ l', exchangeOf cfg' i = some (l', f) := by
  cases i <;> cases hx <;> exact ⟨_, rfl⟩

/-- Settles O21: the frame is the one `exchangeOf` gives under the default parameters, and so under those of every
state. -/
theorem framesDependOnOperandsAlone : Obligations.FramesDependOnOperandsAlone := by
  unfold Obligations.FramesDependOnOperandsAlone
  intro i hi
  obtain ⟨_, f, hdefault⟩ := exists_exchangeOf_of_isProtocolOp Params.default hi
  refine ⟨f, fun s hs => ?_⟩
  obtain ⟨l, hx⟩ := exchangeOf_same_frame hdefault s.cfg
  exact ⟨s.beginExchange l f, exec_of_exchangeOf hs hx, rfl⟩

end Sys2Proof.Machine
end

section
/-! PROOFS. The outcome of a read answer with status 0 and the right length (42_exchange.md R113, R118, R122), and
O28. -/

namespace Sys2Proof.Machine

variable {s : State} {l : Latch} {chk : Bool} {data : List Byte} {rest : List Input}

/-- With status 0 and the length asked for, only the CRC check is left to decide the outcome. -/
theorem responseReport_of_length_eq (cfg : Params) (chk : Bool) (data : List Byte) :
    responseReport cfg data.length chk 0 data = checkedResponse cfg chk data := by
  simp [responseReport]

/-- The CRC check passes the bytes on unchanged where it is not asked for, and where it is made and holds. -/
theorem checkedResponse_of_passed {cfg : Params}
    (hcrc : chk = true → cfg.checkCrcMode = .verify ∧ crcOk data = true) :
    checkedResponse cfg chk data = .result (.bytes data) := by
  cases chk with
  | false => rfl
  | true =>
    obtain ⟨hmode, hok⟩ := hcrc rfl
    simp [checkedResponse, hmode, hok]

/-- The step that takes the answer to the read of an exchange (R113). -/
theorem step_got_of_read {st : Int} {n : Nat} (hp : s.xphase = .waitRead) (hl : s.xlatch = some l)
    (hn : l.n = some n) (hin : s.inputs = .got st data :: rest) :
    step s = .next ((((s.withInputs rest).record (.got st data)).endExchange).deliver
      (responseReport s.cfg n l.chk st data)) := by
  rw [step_cons hin]
  exact onGot_of_read (s := s.withInputs rest) hp hl hn

/-- Settles O28: of the checks on a read answer, status and length are met and the CRC check passes; none of them
looks at the PCB, the data or the status bytes. -/
theorem responsesAreReturnedUnread : Obligations.ResponsesAreReturnedUnread := by
  unfold Obligations.ResponsesAreReturnedUnread
  intro s op chk data rest hp hl hin hcrc
  refine ⟨_, step_got_of_read hp hl rfl hin, ?_⟩
  have hreport : responseReport s.cfg data.length chk 0 data = .result (.bytes data) :=
    (responseReport_of_length_eq s.cfg chk data).trans (checkedResponse_of_passed hcrc)
  simp [hreport]

end Sys2Proof.Machine
end

section
/-! PROOFS. What the step that delivers an outcome changes of the block (60_exceptions.md R138, R140), and O34. -/

namespace Sys2Proof.Machine

variable {s t : State} {i : Instr} {r : Report}

/-- From `s` to `t` nothing of the block changes, and no transport call is made. -/
def BlockUnchanged (s t : State) : Prop :=
  t.fcs = s.fcs ∧ t.crcPhase = s.crcPhase ∧ t.xphase = s.xphase ∧ t.xlatch = s.xlatch ∧ t.transport = s.transport

/-- From `s` to `t` an answer of the transport ends the exchange: the accumulator stays, and the answer is the last
event of the transport log. -/
def ExchangeEnded (s t : State) : Prop :=
  t.fcs = s.fcs ∧ t.crcPhase = s.crcPhase ∧ t.xphase = .idle ∧ t.xlatch = none ∧
  ((∃ st reached, t.transport = s.transport ++ [TransportEvent.wrote st reached]) ∨
   (∃ st data, t.transport = s.transport ++ [TransportEvent.got st data]))

/-- What the kind of the outcome says about the step that delivers it (R140); a result says nothing here. -/
def ChangesAllowedBy (s t : State) : Report → Prop
  | .result _ => True
  | .transportError _ _ => ExchangeEnded s t
  | .protocolError _ _ => ExchangeEnded s t
  | .usageFault _ => BlockUnchanged s t
  | .refused _ => BlockUnchanged s t

theorem blockUnchanged_deliver (s : State) (r : Report) : BlockUnchanged s (s.deliver r) := ⟨rfl, rfl, rfl, rfl, rfl⟩

theorem exchangeEnded_wrote (s : State) (st : Int) (reached : Nat) (r : Report) :
    ExchangeEnded s ((s.record (.wrote st reached)).endExchange.deliver r) :=
  ⟨rfl, rfl, rfl, rfl, .inl ⟨st, reached, rfl⟩⟩

theorem exchangeEnded_got (s : State) (st : Int) (data : List Byte) (r : Report) :
    ExchangeEnded s ((s.record (.got st data)).endExchange.deliver r) :=
  ⟨rfl, rfl, rfl, rfl, .inr ⟨st, data, rfl⟩⟩

/-- The outcome added to the record is the one delivered, so what it allows is all there is to show. -/
theorem changesAllowedBy_of_deliver {u : State} {r' : Report} (hu : u.reports = s.reports)
    (hr : (u.deliver r').reports = s.reports ++ [r]) (hc : ChangesAllowedBy s (u.deliver r') r') :
    ChangesAllowedBy s (u.deliver r') r := by
  obtain rfl : r' = r := by simpa [hu] using hr
  exact hc

/-- A step that leaves the record of outcomes as it is delivers none. -/
theorem reports_ne_append_singleton (ht : t.reports = s.reports) : t.reports ≠ s.reports ++ [r] := by
  simp [ht]

/-! ### A packet -/

/-- An operation's own step delivers a result, or an error that changes nothing. -/
theorem ExecEffect.changesAllowedBy (e : ExecEffect i s t) (hr : t.reports = s.reports ++ [r]) :
    ChangesAllowedBy s t r := by
  cases e with
  | busy h => exact changesAllowedBy_of_deliver rfl hr (blockUnchanged_deliver s _)
  | crc v p value hc h hp => exact changesAllowedBy_of_deliver rfl hr trivial
  | finalized v value hc h hv => exact changesAllowedBy_of_deliver rfl hr trivial
  | usage k hc h => exact changesAllowedBy_of_deliver rfl hr (blockUnchanged_deliver s _)
  | exchange l f h hx => exact absurd hr (reports_ne_append_singleton rfl)
  | reserved w hw h => exact changesAllowedBy_of_deliver rfl hr (blockUnchanged_deliver s _)
  | observed b hf => exact absurd hr (reports_ne_append_singleton rfl)

theorem PacketEffect.changesAllowedBy {p : Packet} (e : PacketEffect p s t) (hr : t.reports = s.reports ++ [r]) :
    ChangesAllowedBy s t r := by
  cases e with
  | ran i hd e => exact e.changesAllowedBy hr
  | busy h => exact changesAllowedBy_of_deliver rfl hr (blockUnchanged_deliver s _)
  | refused reason hd h => exact changesAllowedBy_of_deliver rfl hr (blockUnchanged_deliver s _)
  | observed b hp hd => exact absurd hr (reports_ne_append_singleton rfl)

/-! ### An answer -/

theorem onWrote_changesAllowedBy {st : Int} {reached : Nat} (h : onWrote st reached s = .next t)
    (hr : t.reports = s.reports ++ [r]) : ChangesAllowedBy s t r := by
  obtain ⟨l, -, -, ⟨-, rfl⟩ | ⟨-, -, rfl⟩ | ⟨n, -, -, rfl⟩⟩ := onWrote_cases h
  · exact changesAllowedBy_of_deliver rfl hr (exchangeEnded_wrote s st reached _)
  · exact changesAllowedBy_of_deliver rfl hr trivial
  · exact absurd hr (reports_ne_append_singleton rfl)

/-- The CRC check delivers a result or a ProtocolError (42_exchange.md R118). -/
theorem ExchangeEnded.changesAllowedBy_checkedResponse (h : ExchangeEnded s t) (cfg : Params) (chk : Bool)
    (data : List Byte) : ChangesAllowedBy s t (checkedResponse cfg chk data) := by
  unfold checkedResponse
  split
  · split
    · exact h
    · split
      · trivial
      · exact h
  · trivial

/-- The checks on a read answer deliver a result, a TransportError or a ProtocolError (R113, R117, R118). -/
theorem ExchangeEnded.changesAllowedBy_responseReport (h : ExchangeEnded s t) (cfg : Params) (n : Nat) (chk : Bool)
    (st : Int) (data : List Byte) : ChangesAllowedBy s t (responseReport cfg n chk st data) := by
  unfold responseReport
  split
  · exact h
  split
  · exact h
  split
  · split
    · exact h
    · exact h.changesAllowedBy_checkedResponse cfg chk _
  · exact h.changesAllowedBy_checkedResponse cfg chk data

theorem onGot_changesAllowedBy {st : Int} {data : List Byte} (h : onGot st data s = .next t)
    (hr : t.reports = s.reports ++ [r]) : ChangesAllowedBy s t r := by
  obtain ⟨l, n, -, -, -, rfl⟩ := onGot_cases h
  exact changesAllowedBy_of_deliver rfl hr
    ((exchangeEnded_got s st data _).changesAllowedBy_responseReport s.cfg n l.chk st data)

/-! ### A step -/

theorem ChangesAllowedBy.of_withInputs {rest : List Input} (h : ChangesAllowedBy (s.withInputs rest) t r) :
    ChangesAllowedBy s t r := by
  cases r <;> exact h

theorem step_changesAllowedBy (h : step s = .next t) (hr : t.reports = s.reports ++ [r]) :
    ChangesAllowedBy s t r := by
  cases step_cases h with
  | stays hi => exact absurd hr (reports_ne_append_singleton rfl)
  | packet p rest hi e => exact (e.changesAllowedBy hr).of_withInputs
  | wrote st reached rest hi e => exact (onWrote_changesAllowedBy e hr).of_withInputs
  | got st data rest hi e => exact (onGot_changesAllowedBy e hr).of_withInputs
  | reset rest hi hs => exact absurd hr (reports_ne_append_singleton rfl)

/-- Settles O34: an operation's own step raises only what changes nothing, and the two answers raise only what ends the
exchange. -/
theorem errorsEndTheExchangeAndMakeNoCall : Obligations.ErrorsEndTheExchangeAndMakeNoCall := by
  unfold Obligations.ErrorsEndTheExchangeAndMakeNoCall
  intro s t r h hr
  have hchanges := step_changesAllowedBy h hr
  refine ⟨?refusedOrUsageFault, ?transportOrProtocolError⟩
  case refusedOrUsageFault =>
    rintro (⟨reason, rfl⟩ | ⟨k, rfl⟩)
    · exact hchanges
    · exact hchanges
  case transportOrProtocolError =>
    rintro (⟨call, st, rfl⟩ | ⟨kind, data, rfl⟩)
    · exact hchanges
    · exact hchanges

end Sys2Proof.Machine
end

section
/-! PROOFS. The fields of a command word (30_encoding.md R62, R86): what they are of the word's value, and the word as
their sum. -/

namespace Sys2Proof

variable {w : CmdWord}

theorem opField_toNat (w : CmdWord) : (opField w).toNat = w.toNat % 2 ^ 4 := by
  simp [opField, BitVec.extractLsb'_toNat]

theorem chkField_toNat (w : CmdWord) : (chkField w).toNat = w.toNat / 2 ^ 4 % 2 := by
  simp [chkField, BitVec.getLsbD, Nat.toNat_testBit]

theorem rsvField_toNat (w : CmdWord) : (rsvField w).toNat = w.toNat / 2 ^ 5 % 2 ^ 3 := by
  simp [rsvField, BitVec.extractLsb'_toNat, Nat.shiftRight_eq_div_pow]

theorem a8Field_toNat (w : CmdWord) : (a8Field w).toNat = w.toNat / 2 ^ 8 % 2 ^ 8 := by
  simp [a8Field, BitVec.extractLsb'_toNat, Nat.shiftRight_eq_div_pow]

theorem a16Field_toNat (w : CmdWord) : (a16Field w).toNat = w.toNat / 2 ^ 16 % 2 ^ 16 := by
  simp [a16Field, BitVec.extractLsb'_toNat, Nat.shiftRight_eq_div_pow]

theorem lenField_toNat (w : CmdWord) : (lenField w).toNat = w.toNat / 2 ^ 32 % 2 ^ 8 := by
  simp [lenField, BitVec.extractLsb'_toNat, Nat.shiftRight_eq_div_pow]

/-- A command word is the sum of its shifted fields (30_encoding.md R62). -/
theorem toNat_eq_sum_of_fields (w : CmdWord) :
    w.toNat = (opField w).toNat + 2 ^ 4 * (chkField w).toNat + 2 ^ 5 * (rsvField w).toNat +
      2 ^ 8 * (a8Field w).toNat + 2 ^ 16 * (a16Field w).toNat + 2 ^ 32 * (lenField w).toNat := by
  rw [opField_toNat, chkField_toNat, rsvField_toNat, a8Field_toNat, a16Field_toNat, lenField_toNat]
  have hw : w.toNat < 2 ^ 40 := w.isLt
  omega

/-- Two command words with the same fields are the same. -/
theorem eq_iff_fields_eq {w v : CmdWord} :
    w = v ↔ opField w = opField v ∧ rsvField w = rsvField v ∧ a8Field w = a8Field v ∧ a16Field w = a16Field v ∧
      lenField w = lenField v ∧ chkField w = chkField v := by
  constructor
  · rintro rfl
    exact ⟨rfl, rfl, rfl, rfl, rfl, rfl⟩
  · rintro ⟨hop, hrsv, ha8, ha16, hlen, hchk⟩
    apply BitVec.eq_of_toNat_eq
    rw [toNat_eq_sum_of_fields w, toNat_eq_sum_of_fields v, hop, hchk, hrsv, ha8, ha16, hlen]

/-- A word whose field `rsv` is 0 is assembled from its other fields. -/
theorem assemble_fields (hrsv : rsvField w = 0) :
    assemble (opField w) (chkField w) (a8Field w) (a16Field w) (lenField w) = w := by
  simp [eq_iff_fields_eq, hrsv]

/-- The word of R86 is the sum of its shifted fields. -/
theorem assemble_toNat (op : BitVec 4) (chk : Bool) (a8 : Byte) (a16 : Half) (len : Byte) :
    (assemble op chk a8 a16 len).toNat =
      op.toNat + 2 ^ 4 * chk.toNat + 2 ^ 8 * a8.toNat + 2 ^ 16 * a16.toNat + 2 ^ 32 * len.toNat := by
  simpa using toNat_eq_sum_of_fields (assemble op chk a8 a16 len)

end Sys2Proof
end

section
/-! PROOFS. The checks of the decoder, in their order (30_encoding.md R69, R70): what each refuses, and what passes
them all. -/

namespace Sys2Proof

variable {w : CmdWord} {buf : Option (List Nat)} {i : Instr} {op : BitVec 4} {chk : Bool} {a8 : Byte} {a16 : Half}
  {len : Byte}

theorem decode_command_eq_ok_iff : decode (.command w buf) = .ok i ↔ decodeCommand w buf = .ok i := by
  cases h : decodeCommand w buf <;> simp [decode, h]

theorem decode_frame_eq_ok_iff {r : List Byte} : decode (.frame r) = .ok i ↔ decodeFrame r = some i := by
  cases h : decodeFrame r <;> simp [decode, h]

theorem decode_command_eq_error_iff {e : RefusalReason} :
    decode (.command w buf) = .error (.refused e) ↔ decodeCommand w buf = .error e := by
  cases h : decodeCommand w buf <;> simp [decode, h]

/-! ### What the checks ask -/

/-- The word checks of R69 for a code that is not reserved. -/
structure LegalFields (op : BitVec 4) (chk : Bool) (a8 : Byte) (a16 : Half) (len : Byte) : Prop where
  code : op < 0x9
  unused : unusedFieldsNonzero op a8 a16 len = false
  flag : chk = true → usesChk op = true

/-- A command word passes R69's checks and has no reserved code. -/
structure LegalWord (w : CmdWord) : Prop where
  rsv : rsvField w = 0
  fields : LegalFields (opField w) (chkField w) (a8Field w) (a16Field w) (lenField w)

/-- `buf` stands beside the code that takes it, and no other, and its elements are bytes (R69, R70). -/
structure LegalBuf (op : BitVec 4) (buf : Option (List Nat)) : Prop where
  shape : op = 0x3 ↔ buf.isSome = true
  range : bufInRange (buf.getD []) = true

theorem legalFields_iff :
    LegalFields op chk a8 a16 len ↔
      op < 0x9 ∧ unusedFieldsNonzero op a8 a16 len = false ∧ (chk = true → usesChk op = true) :=
  ⟨fun ⟨hop, hunused, hchk⟩ => ⟨hop, hunused, hchk⟩, fun ⟨hop, hunused, hchk⟩ => ⟨hop, hunused, hchk⟩⟩

theorem legalWord_iff_fields : LegalWord w ↔
    rsvField w = 0 ∧ LegalFields (opField w) (chkField w) (a8Field w) (a16Field w) (lenField w) :=
  ⟨fun ⟨hrsv, hf⟩ => ⟨hrsv, hf⟩, fun ⟨hrsv, hf⟩ => ⟨hrsv, hf⟩⟩

/-- What a legal word means, with the `buf` beside it (R68). -/
def wordInstr (w : CmdWord) (buf : Option (List Nat)) : Instr :=
  operation (opField w) (chkField w) (a8Field w) (a16Field w) (lenField w) ((buf.getD []).map (BitVec.ofNat 8))

/-- A legal word has 0 in every field that its code does not use. -/
theorem LegalFields.eq_zero_of_unused (hf : LegalFields op chk a8 a16 len) :
    (usesA8 op = false → a8 = 0) ∧ (usesA16 op = false → a16 = 0) ∧ (usesLen op = false → len = 0) ∧
      (usesChk op = false → chk = false) := by
  obtain ⟨-, hunused, hchk⟩ := hf
  obtain ⟨⟨h8, h16⟩, hlen⟩ := by simpa [unusedFieldsNonzero] using hunused
  exact ⟨h8, h16, hlen, fun hu => by simpa [hu] using hchk⟩

/-- The codes below the reserved ones. -/
theorem code_cases {op : BitVec 4} (h : op < 0x9) :
    op = 0 ∨ op = 1 ∨ op = 2 ∨ op = 3 ∨ op = 4 ∨ op = 5 ∨ op = 6 ∨ op = 7 ∨ op = 8 := by
  revert op
  decide

theorem map_toNat_map_ofNat {l : List Nat} (h : bufInRange l = true) :
    (l.map (BitVec.ofNat 8)).map BitVec.toNat = l := by
  have hlt : ∀ x ∈ l, x < 2 ^ 8 := by simpa [bufInRange] using h
  rw [List.map_map]
  exact (List.map_congr_left fun x hx => Nat.mod_eq_of_lt (hlt x hx)).trans l.map_id

@[simp] theorem bufInRange_map_toNat (l : List Byte) : bufInRange (l.map BitVec.toNat) = true := by
  simpa [bufInRange] using fun x _ => x.isLt

theorem LegalBuf.none {op : BitVec 4} (h : op ≠ 0x3) : LegalBuf op none := ⟨by simpa using h, rfl⟩

theorem LegalBuf.bytes (l : List Byte) : LegalBuf 0x3 (some (l.map BitVec.toNat)) :=
  ⟨by simp, bufInRange_map_toNat l⟩

/-- A legal `buf` is a sequence of bytes beside `CRC_COMPUTE`, and absent beside any other code. -/
theorem LegalBuf.cases {op : BitVec 4} (h : LegalBuf op buf) :
    (op = 0x3 ∧ ∃ l : List Byte, buf = some (l.map BitVec.toNat)) ∨ (op ≠ 0x3 ∧ buf = Option.none) := by
  obtain ⟨hshape, hrange⟩ := h
  cases buf with
  | none => exact .inr ⟨by simpa using hshape, rfl⟩
  | some l =>
    have hbytes : some l = some ((l.map (BitVec.ofNat 8)).map BitVec.toNat) :=
      congrArg some (map_toNat_map_ofNat hrange).symm
    exact .inl ⟨by simpa using hshape, l.map (BitVec.ofNat 8), hbytes⟩

theorem map_ofNat_map_toNat (l : List Byte) : (l.map BitVec.toNat).map (BitVec.ofNat 8) = l := by
  rw [List.map_map]
  exact (List.map_congr_left fun b _ => by simp).trans l.map_id

/-! ### The order of the checks -/

theorem decodeCommand_of_reserved (h : 0x9 ≤ opField w) : decodeCommand w buf = .ok (reservedInstr w) := if_pos h

theorem decodeCommand_of_not_legalWord (hop : opField w < 0x9) (h : ¬ LegalWord w) :
    decodeCommand w buf = .error (.reservedField w) := by
  rw [decodeCommand, if_neg (BitVec.not_le.2 hop)]
  split_ifs with rsv unused chk
  · rfl
  · rfl
  · rfl
  all_goals
    have hflag : chkField w = true → usesChk (opField w) = true := fun hc => by_contra fun hu => chk ⟨hc, hu⟩
    exact absurd ⟨not_not.1 rsv, hop, Bool.not_eq_true _ ▸ unused, hflag⟩ h

theorem decodeCommand_of_legalWord (h : LegalWord w) :
    decodeCommand w buf =
      if (opField w = 0x3) ≠ (buf.isSome = true) then .error .operandShape
      else if ¬ bufInRange (buf.getD []) then .error .operandRange
      else .ok (wordInstr w buf) := by
  obtain ⟨hrsv, hop, hunused, hchk⟩ := h
  rw [decodeCommand, if_neg (BitVec.not_le.2 hop), if_neg (not_not.2 hrsv), if_neg (by simp [hunused]),
    if_neg (fun ⟨hc, hu⟩ => hu (hchk hc)), wordInstr]

/-- What decodes has a reserved code or passes every check. -/
theorem decodeCommand_eq_ok_iff : decodeCommand w buf = .ok i ↔
    (0x9 ≤ opField w ∧ i = reservedInstr w) ∨ (LegalWord w ∧ LegalBuf (opField w) buf ∧ i = wordInstr w buf) := by
  constructor
  · intro h
    by_cases hr : 0x9 ≤ opField w
    · rw [decodeCommand_of_reserved hr] at h
      exact .inl ⟨hr, (Except.ok.inj h).symm⟩
    by_cases hw : LegalWord w
    · rw [decodeCommand_of_legalWord hw] at h
      split_ifs at h with shape range
      exact .inr ⟨hw, ⟨iff_of_eq (not_not.1 shape), range⟩, (Except.ok.inj h).symm⟩
    · rw [decodeCommand_of_not_legalWord (BitVec.not_le.1 hr) hw] at h
      cases h
  · rintro (⟨hr, rfl⟩ | ⟨hw, ⟨hshape, hrange⟩, rfl⟩)
    · exact decodeCommand_of_reserved hr
    · rw [decodeCommand_of_legalWord hw, if_neg (not_not.2 (propext hshape)), if_neg (not_not.2 hrange)]

end Sys2Proof
end

section
/-! PROOFS. The reserved words (30_encoding.md R68): a word is its upper bits and its code, and the code tells the row
of the table. -/

namespace Sys2Proof

open Safety

variable {w : CmdWord} {buf : Option (List Nat)} (upper : BitVec 36) (op : BitVec 4)

theorem upper_append_opField (w : CmdWord) : w.extractLsb' 4 36 ++ opField w = w := by
  apply BitVec.eq_of_getLsbD_eq
  intro i hi
  rw [BitVec.getLsbD_append]
  split
  · next h => simp [opField, h]
  · next h => simp [show i - 4 < 36 by omega, show 4 + (i - 4) = i by omega]

theorem extractLsb'_append_of_low {start n : Nat} (h : start + n ≤ 4) :
    BitVec.extractLsb' start n (upper ++ op : CmdWord) = op.extractLsb' start n := by
  apply BitVec.eq_of_getLsbD_eq
  intro i hi
  rw [BitVec.getLsbD_extractLsb', BitVec.getLsbD_append, if_pos (by omega), BitVec.getLsbD_extractLsb']

@[simp] theorem upper_append : BitVec.extractLsb' 4 36 (upper ++ op : CmdWord) = upper := by
  apply BitVec.eq_of_getLsbD_eq
  intro i hi
  rw [BitVec.getLsbD_extractLsb', BitVec.getLsbD_append, if_neg (by omega)]
  simp [hi]

@[simp] theorem opField_append : opField (upper ++ op) = op := by
  rw [opField, extractLsb'_append_of_low upper op (by decide), BitVec.extractLsb'_eq_self]

/-- The row of a reserved word, from its upper bits and its code (R68). -/
theorem reservedInstr_append : reservedInstr (upper ++ op) =
    if op = 0x9 then .reservedOp9 upper
    else if op.extractLsb' 1 3 = 5#3 then .reservedOpAB upper (op.extractLsb' 0 1)
    else .reservedOpCF upper (op.extractLsb' 0 2) := by
  rw [reservedInstr, opField_append, upper_append, extractLsb'_append_of_low upper op (by decide),
    extractLsb'_append_of_low upper op (by decide), extractLsb'_append_of_low upper op (by decide)]

/-- The codes 0xA and 0xB, as the table splits them. -/
theorem code_AB (low : BitVec 1) : (0x9 : BitVec 4) ≤ 5#3 ++ low ∧ (5#3 ++ low : BitVec 4) ≠ 0x9 ∧
    BitVec.extractLsb' 1 3 (5#3 ++ low : BitVec 4) = 5#3 ∧ BitVec.extractLsb' 0 1 (5#3 ++ low : BitVec 4) = low := by
  revert low
  decide

/-- The codes 0xC to 0xF, as the table splits them. -/
theorem code_CF (low : BitVec 2) : (0x9 : BitVec 4) ≤ 3#2 ++ low ∧ (3#2 ++ low : BitVec 4) ≠ 0x9 ∧
    BitVec.extractLsb' 1 3 (3#2 ++ low : BitVec 4) ≠ 5#3 ∧ BitVec.extractLsb' 0 2 (3#2 ++ low : BitVec 4) = low := by
  revert low
  decide

theorem code_eq_of_AB {op : BitVec 4} (h : op.extractLsb' 1 3 = 5#3) : 5#3 ++ op.extractLsb' 0 1 = op := by
  revert op
  decide

theorem code_eq_of_CF {op : BitVec 4} (h9 : 0x9 ≤ op) (hne : op ≠ 0x9) (hAB : op.extractLsb' 1 3 ≠ 5#3) :
    3#2 ++ op.extractLsb' 0 2 = op := by
  revert op
  decide

theorem decodeCommand_append_of_reserved (h : 0x9 ≤ op) :
    decodeCommand (upper ++ op) buf = .ok (reservedInstr (upper ++ op)) :=
  decodeCommand_of_reserved (by rwa [opField_append])

theorem decodeCommand_reservedWord9 : decodeCommand (reservedWord9 upper) buf = .ok (.reservedOp9 upper) := by
  rw [reservedWord9, decodeCommand_append_of_reserved _ _ (by decide), reservedInstr_append]
  rfl

theorem decodeCommand_reservedWordAB (low : BitVec 1) :
    decodeCommand (reservedWordAB upper low) buf = .ok (.reservedOpAB upper low) := by
  obtain ⟨hge, hne, hAB, hlow⟩ := code_AB low
  rw [reservedWordAB, decodeCommand_append_of_reserved _ _ hge, reservedInstr_append, if_neg hne, if_pos hAB, hlow]

theorem decodeCommand_reservedWordCF (low : BitVec 2) :
    decodeCommand (reservedWordCF upper low) buf = .ok (.reservedOpCF upper low) := by
  obtain ⟨hge, hne, hCF, hlow⟩ := code_CF low
  rw [reservedWordCF, decodeCommand_append_of_reserved _ _ hge, reservedInstr_append, if_neg hne, if_neg hCF, hlow]

theorem encode_reservedInstr_append (h : 0x9 ≤ op) :
    encode (reservedInstr (upper ++ op)) = .command (upper ++ op) none := by
  rw [reservedInstr_append]
  split_ifs with h9 hAB
  · rw [h9]
    rfl
  · rw [encode, reservedWordAB, code_eq_of_AB hAB]
  · rw [encode, reservedWordCF, code_eq_of_CF h h9 hAB]

/-- The row of a reserved word encodes to that word. -/
theorem encode_reservedInstr (h : 0x9 ≤ opField w) : encode (reservedInstr w) = .command w none := by
  rw [← upper_append_opField w]
  exact encode_reservedInstr_append _ _ h

theorem isReserved_reservedInstr (w : CmdWord) : isReserved (reservedInstr w) = true := by
  unfold reservedInstr
  split_ifs <;> rfl

end Sys2Proof
end

section
/-! PROOFS. Encoding and decoding undo each other (30_encoding.md R62 to R87), and O44, O45, O47, O48. -/

namespace Sys2Proof

open Machine Safety

variable {w : CmdWord} {buf : Option (List Nat)} {i : Instr} {op : BitVec 4} {chk : Bool} {a8 : Byte} {a16 : Half}
  {len : Byte}

/-! ### Decoding an encoding -/

/-- The word assembled from legal fields, with a legal `buf`, decodes to what R68 says it means. -/
theorem decodeCommand_assemble (hf : LegalFields op chk a8 a16 len) (hb : LegalBuf op buf) :
    decodeCommand (assemble op chk a8 a16 len) buf =
      .ok (operation op chk a8 a16 len ((buf.getD []).map (BitVec.ofNat 8))) :=
  decodeCommand_eq_ok_iff.2 (.inr ⟨⟨rsvField_assemble .., by simpa using hf⟩, by simpa using hb, by simp [wordInstr]⟩)

theorem decode_assemble (hf : LegalFields op chk a8 a16 len) (hop : op ≠ 0x3) :
    decode (.command (assemble op chk a8 a16 len) none) = .ok (operation op chk a8 a16 len []) :=
  decode_command_eq_ok_iff.2 (decodeCommand_assemble hf (.none hop))

theorem decode_assemble_crcCompute (l : List Byte) :
    decode (.command (assemble 0x3 false 0 0 0) (some (l.map BitVec.toNat))) = .ok (.crcCompute l) := by
  have h := decodeCommand_assemble (op := 0x3) (chk := false) (a8 := 0) (a16 := 0) (len := 0)
    ⟨by decide, rfl, nofun⟩ (.bytes l)
  rw [Option.getD_some, map_ofNat_map_toNat] at h
  exact decode_command_eq_ok_iff.2 h

theorem decodeFrame_wireSelectApp (pcb c0 c1 : Byte) :
    decodeFrame (wireSelectApp pcb c0 c1) = some (.frameSelectNfcT4App pcb c0 c1) := by
  simp [decodeFrame, wireKill, wireDeselect, wireSelectApp, bodySelectApp, Config.t4Aid, slice, byteAt]

theorem decodeFrame_wireSelectFile (pcb : Byte) (fileId : Half) (c0 c1 : Byte) :
    decodeFrame (wireSelectFile pcb fileId c0 c1) = some (.frameSelectFile pcb fileId c0 c1) := by
  simp [decodeFrame, wireKill, wireDeselect, wireSelectFile, bodySelectFile, slice, byteAt]

theorem decodeFrame_wireReadBinary (pcb : Byte) (offset : Half) (length c0 c1 : Byte) :
    decodeFrame (wireReadBinary pcb offset length c0 c1) = some (.frameReadBinary pcb offset length c0 c1) := by
  simp [decodeFrame, wireKill, wireDeselect, wireReadBinary, bodyReadBinary, slice, byteAt]

/-- Settles O44: an operation encodes to a word assembled from legal fields, a reserved row to its word, and a wire
frame to bytes that have its row's length and fixed bytes. -/
theorem decodeOfEncode : Obligations.DecodeOfEncode := by
  unfold Obligations.DecodeOfEncode
  intro i
  cases i with
  | crcStart => exact decode_assemble ⟨by decide, rfl, nofun⟩ (by decide)
  | crcUpdate b => exact decode_assemble ⟨by decide, rfl, nofun⟩ (by decide)
  | crcFinalize => exact decode_assemble ⟨by decide, rfl, nofun⟩ (by decide)
  | crcCompute buf => exact decode_assemble_crcCompute buf
  | killRfSelectI2c => exact decode_assemble ⟨by decide, rfl, nofun⟩ (by decide)
  | selectNfcT4App pcb chk => exact decode_assemble ⟨by decide, rfl, fun _ => rfl⟩ (by decide)
  | selectFile fileId pcb chk => exact decode_assemble ⟨by decide, rfl, fun _ => rfl⟩ (by decide)
  | readBinary offset length pcb chk => exact decode_assemble ⟨by decide, rfl, fun _ => rfl⟩ (by decide)
  | deselect => exact decode_assemble ⟨by decide, rfl, nofun⟩ (by decide)
  | reservedOp9 upper => exact decode_command_eq_ok_iff.2 (decodeCommand_reservedWord9 upper)
  | reservedOpAB upper low => exact decode_command_eq_ok_iff.2 (decodeCommand_reservedWordAB upper low)
  | reservedOpCF upper low => exact decode_command_eq_ok_iff.2 (decodeCommand_reservedWordCF upper low)
  | frameKillRfSelectI2c => rfl
  | frameDeselect => rfl
  | frameSelectNfcT4App pcb c0 c1 => exact decode_frame_eq_ok_iff.2 (decodeFrame_wireSelectApp pcb c0 c1)
  | frameSelectFile pcb fileId c0 c1 => exact decode_frame_eq_ok_iff.2 (decodeFrame_wireSelectFile pcb fileId c0 c1)
  | frameReadBinary pcb offset length c0 c1 =>
    exact decode_frame_eq_ok_iff.2 (decodeFrame_wireReadBinary pcb offset length c0 c1)

/-! ### Encoding a decoded word -/

/-- What a legal word means, and the `buf` beside it, encode to that word and that `buf`: the fields that the operation
does not carry are 0. -/
theorem encode_operation (hf : LegalFields op chk a8 a16 len) (hb : LegalBuf op buf) :
    encode (operation op chk a8 a16 len ((buf.getD []).map (BitVec.ofNat 8))) =
      .command (assemble op chk a8 a16 len) buf := by
  obtain ⟨h8, h16, hlen, hchk⟩ := hf.eq_zero_of_unused
  obtain ⟨rfl, l, rfl⟩ | ⟨hne, rfl⟩ := hb.cases
  · obtain rfl := h8 rfl
    obtain rfl := h16 rfl
    obtain rfl := hlen rfl
    obtain rfl := hchk rfl
    rw [Option.getD_some, map_ofNat_map_toNat]
    rfl
  · rcases code_cases hf.code with rfl | rfl | rfl | rfl | rfl | rfl | rfl | rfl | rfl
    all_goals
      simp_all [operation, encode, usesA8, usesA16, usesLen, usesChk]

theorem encode_wordInstr (hw : LegalWord w) (hb : LegalBuf (opField w) buf) :
    encode (wordInstr w buf) = .command w buf := by
  rw [wordInstr, encode_operation hw.fields hb, assemble_fields hw.rsv]

/-! ### Encoding a decoded frame -/

theorem eq_wireSelectApp_of_slices {r : List Byte} (hlen : r.length = 16)
    (hfixed : slice r 1 14 = (bodySelectApp 0).drop 1) :
    r = wireSelectApp (byteAt r 0) (byteAt r 14) (byteAt r 15) := by
  calc r = slice r 0 16 := by rw [← hlen, slice_zero_length]
    _ = byteAt r 0 :: (slice r 1 14 ++ slice r 14 16) := by
      rw [slice_eq_byteAt_cons (by omega) (by decide), slice_append_slice (by decide) (by decide)]
    _ = _ := by
      rw [hfixed]
      simp [wireSelectApp, bodySelectApp, slice_eq_byteAt_cons, hlen]

theorem eq_wireSelectFile_of_slices {r : List Byte} (hlen : r.length = 10)
    (hfixed : slice r 1 6 = [0x00, 0xA4, 0x00, 0x0C, 0x02]) :
    r = wireSelectFile (byteAt r 0) (join (byteAt r 6) (byteAt r 7)) (byteAt r 8) (byteAt r 9) := by
  calc r = slice r 0 10 := by rw [← hlen, slice_zero_length]
    _ = byteAt r 0 :: (slice r 1 6 ++ slice r 6 10) := by
      rw [slice_eq_byteAt_cons (by omega) (by decide), slice_append_slice (by decide) (by decide)]
    _ = _ := by
      rw [hfixed]
      simp [wireSelectFile, bodySelectFile, slice_eq_byteAt_cons, hlen]

theorem eq_wireReadBinary_of_slices {r : List Byte} (hlen : r.length = 8) (hfixed : slice r 1 3 = [0x00, 0xB0]) :
    r = wireReadBinary (byteAt r 0) (join (byteAt r 3) (byteAt r 4)) (byteAt r 5) (byteAt r 6) (byteAt r 7) := by
  calc r = slice r 0 8 := by rw [← hlen, slice_zero_length]
    _ = byteAt r 0 :: (slice r 1 3 ++ slice r 3 8) := by
      rw [slice_eq_byteAt_cons (by omega) (by decide), slice_append_slice (by decide) (by decide)]
    _ = _ := by
      rw [hfixed]
      simp [wireReadBinary, bodyReadBinary, slice_eq_byteAt_cons, hlen]

/-- A captured sequence that has a row's format is the encoding of that row. -/
theorem encode_of_decodeFrame {r : List Byte} (h : decodeFrame r = some i) : encode i = .frame r := by
  unfold decodeFrame at h
  split_ifs at h with kill deselect app file read
  · obtain rfl := Option.some.inj h
    rw [encode, kill]
  · obtain rfl := Option.some.inj h
    rw [encode, deselect]
  · obtain rfl := Option.some.inj h
    obtain ⟨hlen, hfixed⟩ := app
    rw [encode, ← eq_wireSelectApp_of_slices hlen hfixed]
  · obtain rfl := Option.some.inj h
    obtain ⟨hlen, hfixed⟩ := file
    rw [encode, ← eq_wireSelectFile_of_slices hlen hfixed]
  · obtain rfl := Option.some.inj h
    obtain ⟨hlen, hfixed⟩ := read
    rw [encode, ← eq_wireReadBinary_of_slices hlen hfixed]

/-- Settles O45: a frame is rebuilt from the slices `decodeFrame` reads, a reserved word from its upper bits and its
code, and any other word from its fields, of which the unused ones are 0. -/
theorem encodeOfDecode : Obligations.EncodeOfDecode := by
  unfold Obligations.EncodeOfDecode
  intro p i h
  cases p with
  | frame r => exact .inl (encode_of_decodeFrame (decode_frame_eq_ok_iff.1 h))
  | command w buf =>
    obtain ⟨hr, rfl⟩ | ⟨hw, hb, rfl⟩ := decodeCommand_eq_ok_iff.1 (decode_command_eq_ok_iff.1 h)
    · have henc := encode_reservedInstr hr
      cases buf with
      | none => exact .inl henc
      | some l => exact .inr ⟨isReserved_reservedInstr w, w, l, rfl, henc⟩
    · exact .inl (encode_wordInstr hw hb)

/-! ### Assembly lines and words written out -/

theorem expand_instr (line : AsmLine) : line.expand.instr = line.instr := by
  cases line <;> rfl

/-- Settles O47: a line's packet is the encoding of its instruction (O44), and a word is the sum of its fields. -/
theorem assemblyLinesAssembleToTheirInstructions : Obligations.AssemblyLinesAssembleToTheirInstructions := by
  unfold Obligations.AssemblyLinesAssembleToTheirInstructions
  exact ⟨fun line => ⟨decodeOfEncode line.instr, expand_instr line⟩, assemble_toNat⟩

/-- Settles O48: nine closed instances of the decoder. -/
theorem wordsWrittenOutFromTheSpecDecode : Obligations.WordsWrittenOutFromTheSpecDecode := by
  unfold Obligations.WordsWrittenOutFromTheSpecDecode
  decide

end Sys2Proof
end

section
/-! PROOFS. The opcode table (spec/opcode_table.json): the words of its rows, field by field, and O46. -/

namespace Sys2Proof

open Safety

variable {w : CmdWord}

/-- A mask acts on the fields of a word one by one. -/
theorem OpcodeRow.matches_iff (row : OpcodeRow) (w : CmdWord) : row.matches w = true ↔
    opField w &&& opField row.mask = opField row.pattern ∧ rsvField w &&& rsvField row.mask = rsvField row.pattern ∧
    a8Field w &&& a8Field row.mask = a8Field row.pattern ∧ a16Field w &&& a16Field row.mask = a16Field row.pattern ∧
    lenField w &&& lenField row.mask = lenField row.pattern ∧
    (chkField w && chkField row.mask) = chkField row.pattern := by
  simp [OpcodeRow.matches, eq_iff_fields_eq, opField, chkField, rsvField, a8Field, a16Field, lenField,
    BitVec.extractLsb'_and]

/-- The table's last three rows are those of the reserved codes. -/
theorem reserved_code_iff (op : BitVec 4) : op = 9#4 ∨ op &&& 14#4 = 10#4 ∨ op &&& 12#4 = 12#4 ↔ 9#4 ≤ op := by
  revert op
  decide

/-- The rows of the table, field by field. -/
theorem exists_row_iff {op : BitVec 4} {chk : Bool} {rsv : BitVec 3} {a8 : Byte} {a16 : Half} {len : Byte} :
    (∃ row ∈ opcodeTable,
      op &&& opField row.mask = opField row.pattern ∧ rsv &&& rsvField row.mask = rsvField row.pattern ∧
      a8 &&& a8Field row.mask = a8Field row.pattern ∧ a16 &&& a16Field row.mask = a16Field row.pattern ∧
      len &&& lenField row.mask = lenField row.pattern ∧ (chk && chkField row.mask) = chkField row.pattern) ↔
    0x9 ≤ op ∨ (rsv = 0 ∧ LegalFields op chk a8 a16 len) := by
  have h3 : rsv &&& 7#3 = rsv := BitVec.and_allOnes
  have h4 : op &&& 15#4 = op := BitVec.and_allOnes
  have h8 : ∀ b : Byte, b &&& 255#8 = b := fun _ => BitVec.and_allOnes
  have h16 : a16 &&& 65535#16 = a16 := BitVec.and_allOnes
  by_cases hop : 9#4 ≤ op
  · have hrow := (reserved_code_iff op).2 hop
    simp [opcodeTable, opField, chkField, rsvField, a8Field, a16Field, lenField, h4, hrow, hop]
  · rcases code_cases (BitVec.not_le.1 hop) with rfl | rfl | rfl | rfl | rfl | rfl | rfl | rfl | rfl
    all_goals
      simp [opcodeTable, opField, chkField, rsvField, a8Field, a16Field, lenField, h3, h8, h16, legalFields_iff,
        unusedFieldsNonzero, usesA8, usesA16, usesLen, usesChk, and_assoc]

theorem inOpcodeTable_iff : inOpcodeTable w = true ↔ 0x9 ≤ opField w ∨ LegalWord w := by
  simp only [inOpcodeTable, List.any_eq_true, OpcodeRow.matches_iff]
  exact exists_row_iff.trans (or_congr_right legalWord_iff_fields.symm)

/-- The `buf` that is set beside a table row's word is a legal one. -/
theorem legalBuf_tableBuf (w : CmdWord) : LegalBuf (opField w) (tableBuf w) := by
  unfold tableBuf
  split_ifs with h
  · rw [h]
    exact .bytes []
  · exact .none h

/-- Settles O46: both sides say that the code is reserved or that the fields are legal and `rsv` is 0. -/
theorem decodableWordsAreThoseOfTheOpcodeTable : Obligations.DecodableWordsAreThoseOfTheOpcodeTable := by
  unfold Obligations.DecodableWordsAreThoseOfTheOpcodeTable
  intro w
  rw [inOpcodeTable_iff]
  simp only [decode_command_eq_ok_iff, decodeCommand_eq_ok_iff]
  constructor
  · rintro ⟨i, ⟨hr, -⟩ | ⟨hw, -, -⟩⟩
    · exact .inl hr
    · exact .inr hw
  · rintro (hr | hw)
    · exact ⟨_, .inl ⟨hr, rfl⟩⟩
    · exact ⟨_, .inr ⟨hw, legalBuf_tableBuf w, rfl⟩⟩

end Sys2Proof
end

section
/-! PROOFS. The checks of the decoder on the values of the fields (30_encoding.md R69), and O41. -/

namespace Sys2Proof

open Safety

variable {w : CmdWord} {buf : Option (List Nat)} {op chk rsv a8 a16 len : Nat}

/-- The fields of `w` have these values; `chk` is a bit. -/
structure FieldValues (w : CmdWord) (op chk rsv a8 a16 len : Nat) : Prop where
  op_eq : opField w = BitVec.ofNat 4 op
  chk_eq : chkField w = decide (chk = 1)
  rsv_eq : rsvField w = BitVec.ofNat 3 rsv
  a8_eq : a8Field w = BitVec.ofNat 8 a8
  a16_eq : a16Field w = BitVec.ofNat 16 a16
  len_eq : lenField w = BitVec.ofNat 8 len

theorem eq_ofNat_of_toNat_eq {n k : Nat} {v : BitVec n} (h : v.toNat = k) : v = BitVec.ofNat n k := by
  rw [← h, BitVec.ofNat_toNat, BitVec.setWidth_eq]

theorem eq_decide_of_toNat_eq {c : Bool} {k : Nat} (h : c.toNat = k) : c = decide (k = 1) := by
  subst h
  cases c <;> rfl

/-- The sum of R62 has but one set of fields. -/
theorem fieldValues_of_sum
    (hw : w.toNat = op + 2 ^ 4 * chk + 2 ^ 5 * rsv + 2 ^ 8 * a8 + 2 ^ 16 * a16 + 2 ^ 32 * len)
    (hop : op < 16) (hchk : chk < 2) (hrsv : rsv < 8) (ha8 : a8 < 256) (ha16 : a16 < 65536) (_ : len < 256) :
    FieldValues w op chk rsv a8 a16 len where
  op_eq := eq_ofNat_of_toNat_eq ((opField_toNat w).trans (by omega))
  chk_eq := eq_decide_of_toNat_eq ((chkField_toNat w).trans (by omega))
  rsv_eq := eq_ofNat_of_toNat_eq ((rsvField_toNat w).trans (by omega))
  a8_eq := eq_ofNat_of_toNat_eq ((a8Field_toNat w).trans (by omega))
  a16_eq := eq_ofNat_of_toNat_eq ((a16Field_toNat w).trans (by omega))
  len_eq := eq_ofNat_of_toNat_eq ((lenField_toNat w).trans (by omega))

theorem ofNat_eq_zero_iff {n k : Nat} (h : k < 2 ^ n) : BitVec.ofNat n k = 0#n ↔ k = 0 := by
  rw [← BitVec.toNat_inj, BitVec.toNat_ofNat, BitVec.toNat_ofNat, Nat.mod_eq_of_lt h, Nat.zero_mod]

namespace FieldValues

theorem le_op_iff (hv : FieldValues w op chk rsv a8 a16 len) (hop : op < 16) : 0x9 ≤ opField w ↔ 9 ≤ op := by
  rw [hv.op_eq]
  bv_omega

theorem op_eq_three_iff (hv : FieldValues w op chk rsv a8 a16 len) (hop : op < 16) : opField w = 0x3 ↔ op = 3 := by
  rw [hv.op_eq]
  bv_omega

/-- R69's checks on a code that is not reserved, read from the values of the fields. -/
theorem legalWord_iff (hv : FieldValues w op chk rsv a8 a16 len) (hop : op < 9) (hrsv : rsv < 8) (ha8 : a8 < 256)
    (ha16 : a16 < 65536) (hlen : len < 256) :
    LegalWord w ↔ rsv = 0 ∧
      (a8 ≠ 0 → op ∈ [1, 5, 6, 7]) ∧ (a16 ≠ 0 → op ∈ [6, 7]) ∧ (len ≠ 0 → op = 7) ∧ (chk = 1 → op ∈ [5, 6, 7]) := by
  have h3 : BitVec.ofNat 3 rsv = 0 ↔ rsv = 0 := ofNat_eq_zero_iff hrsv
  have h8 : BitVec.ofNat 8 a8 = 0#8 ↔ a8 = 0 := ofNat_eq_zero_iff ha8
  have h16 : BitVec.ofNat 16 a16 = 0#16 ↔ a16 = 0 := ofNat_eq_zero_iff ha16
  have hl : BitVec.ofNat 8 len = 0#8 ↔ len = 0 := ofNat_eq_zero_iff hlen
  rw [legalWord_iff_fields, hv.op_eq, hv.chk_eq, hv.rsv_eq, hv.a8_eq, hv.a16_eq, hv.len_eq, h3]
  refine and_congr_right fun _ => ?_
  interval_cases op
  all_goals
    simp [legalFields_iff, unusedFieldsNonzero, usesA8, usesA16, usesLen, usesChk, h8, h16, hl, and_assoc]

/-- The meaning of a word from the values of its fields. -/
theorem wordInstr_eq (hv : FieldValues w op chk rsv a8 a16 len) (buf : Option (List Nat)) :
    wordInstr w buf =
      operation (BitVec.ofNat 4 op) (decide (chk = 1)) (BitVec.ofNat 8 a8) (BitVec.ofNat 16 a16) (BitVec.ofNat 8 len)
        ((buf.getD []).map (BitVec.ofNat 8)) := by
  rw [wordInstr, hv.op_eq, hv.chk_eq, hv.a8_eq, hv.a16_eq, hv.len_eq]

/-- An unused field, or a `chk` that the code does not take, makes a word illegal. -/
theorem not_legalWord (hv : FieldValues w op chk rsv a8 a16 len) (hop : op < 9) (hrsv : rsv < 8) (ha8 : a8 < 256)
    (ha16 : a16 < 65536) (hlen : len < 256)
    (h : (a8 ≠ 0 ∧ op ∉ [1, 5, 6, 7]) ∨ (a16 ≠ 0 ∧ op ∉ [6, 7]) ∨ (len ≠ 0 ∧ op ≠ 7) ∨ (chk = 1 ∧ op ∉ [5, 6, 7])) :
    ¬ LegalWord w := by
  rw [hv.legalWord_iff hop hrsv ha8 ha16 hlen]
  rintro ⟨-, h8, h16, hl, hc⟩
  obtain ⟨hne, hnot⟩ | ⟨hne, hnot⟩ | ⟨hne, hnot⟩ | ⟨hne, hnot⟩ := h
  · exact hnot (h8 hne)
  · exact hnot (h16 hne)
  · exact hnot (hl hne)
  · exact hnot (hc hne)

end FieldValues

theorem decode_of_not_legalWord (hop : opField w < 0x9) (h : ¬ LegalWord w) :
    decode (.command w buf) = .error (.refused (.reservedField w)) :=
  decode_command_eq_error_iff.2 (decodeCommand_of_not_legalWord hop h)

theorem decode_of_wrong_shape (hw : LegalWord w) (h : ¬ (opField w = 0x3 ↔ buf.isSome = true)) :
    decode (.command w buf) = .error (.refused .operandShape) := by
  rw [decode_command_eq_error_iff, decodeCommand_of_legalWord hw, if_pos]
  rwa [ne_eq, eq_iff_iff]

theorem decode_of_wrong_range {l : List Nat} (hw : LegalWord w) (h3 : opField w = 0x3) (h : ∃ x ∈ l, 256 ≤ x) :
    decode (.command w (some l)) = .error (.refused .operandRange) := by
  rw [decode_command_eq_error_iff, decodeCommand_of_legalWord hw, if_neg (by simp [h3]), if_pos]
  simpa [bufInRange] using h

theorem decode_of_legalWord (hw : LegalWord w) (hb : LegalBuf (opField w) buf) :
    decode (.command w buf) = .ok (wordInstr w buf) :=
  decode_command_eq_ok_iff.2 (decodeCommand_eq_ok_iff.2 (.inr ⟨hw, hb, rfl⟩))

/-- Settles O41: the hypothesis fixes the fields, and each clause is one outcome of the ordered checks on them. -/
theorem commandWordsAreCheckedInOrder : Obligations.CommandWordsAreCheckedInOrder := by
  unfold Obligations.CommandWordsAreCheckedInOrder
  intro w buf op chk rsv a8 a16 len hw hop hchk hrsv ha8 ha16 hlen
  have hv := fieldValues_of_sum hw hop hchk hrsv ha8 ha16 hlen
  have hlt : op < 9 → opField w < 0x9 := fun h => BitVec.not_le.1 (mt (hv.le_op_iff hop).1 (by omega))
  have hthree := hv.op_eq_three_iff hop
  refine ⟨fun h => ?reserved, fun h hne => ?rsv, fun h _ hbad => ?unused, fun h hz h8 h16 hl hc => ?legal⟩
  case reserved =>
    have hdec := decodeCommand_of_reserved (buf := buf) ((hv.le_op_iff hop).2 h)
    exact ⟨reservedInstr w, decode_command_eq_ok_iff.2 hdec, isReserved_reservedInstr w⟩
  case rsv =>
    refine decode_of_not_legalWord (hlt h) fun hlegal => hne ?_
    obtain ⟨hz, -⟩ := (hv.legalWord_iff h hrsv ha8 ha16 hlen).1 hlegal
    exact hz
  case unused => exact decode_of_not_legalWord (hlt h) (hv.not_legalWord h hrsv ha8 ha16 hlen hbad)
  case legal =>
    have hlegal := (hv.legalWord_iff h hrsv ha8 ha16 hlen).2 ⟨hz, h8, h16, hl, hc⟩
    refine ⟨fun hshape => ?shape, fun l h3 hl hbig => ?range, fun l h3 hl => ?compute, fun hnone => ?plain⟩
    case shape =>
      rw [← hthree] at hshape
      exact decode_of_wrong_shape hlegal hshape
    case range =>
      subst hl
      exact decode_of_wrong_range hlegal (hthree.2 h3) hbig
    case compute =>
      subst hl h3
      have hb : LegalBuf (opField w) (some (l.map BitVec.toNat)) := hthree.2 rfl ▸ .bytes l
      rw [decode_of_legalWord hlegal hb, hv.wordInstr_eq, Option.getD_some, map_ofNat_map_toNat]
      rfl
    case plain =>
      subst hnone
      have hok : op ≠ 3 → decode (.command w none) = .ok _ := fun h3 =>
        (decode_of_legalWord hlegal (.none (mt hthree.1 h3))).trans (congrArg _ (hv.wordInstr_eq none))
      refine ⟨?_, ?_, ?_, ?_, ?_, ?_, ?_, ?_⟩
      all_goals
        rintro rfl
        exact hok (by decide)

end Sys2Proof
end

section
/-! PROOFS. A packet and what it decodes to: the step that takes it is the instruction (30_encoding.md section 1), a
captured frame is observed and classified (R81), and O50, O52. -/

namespace Sys2Proof.Machine

variable {s : State} {i : Instr} {p : Packet} {rest : List Input}

/-! ### A packet that decodes -/

theorem onPacket_of_decode_ok (h : decode p = .ok i) (s : State) : onPacket p s = exec i s := by
  cases p with
  | command w buf => simp [onPacket, decode_command_eq_ok_iff.1 h]
  | frame r => simp [onPacket, decode_frame_eq_ok_iff.1 h]

theorem step_of_decode_ok (hin : s.inputs = .packet p :: rest) (h : decode p = .ok i) :
    step s = exec i (s.withInputs rest) :=
  (step_cons hin).trans (onPacket_of_decode_ok h _)

theorem decodeTableWord_eq_some_iff {nbits n : Nat} :
    decodeTableWord nbits n = some i ↔ decode (tablePacket nbits n) = .ok i := by
  unfold decodeTableWord
  cases decode (tablePacket nbits n) <;> simp [Except.toOption]

/-- Settles O52: `decodeTableWord` is `decode` of the packet that `withFetchWord` places first. -/
theorem aStepRunsTheDecodedInstruction : Obligations.AStepRunsTheDecodedInstruction := by
  unfold Obligations.AStepRunsTheDecodedInstruction
  refine ⟨fun s p rest i hin h => step_of_decode_ok hin h, fun s nbits n i h => ?_⟩
  exact step_of_decode_ok (s := s.withFetchWord nbits n) rfl (decodeTableWord_eq_some_iff.1 h)

/-! ### A captured frame -/

theorem exec_of_encode_frame {r : List Byte} (h : encode i = .frame r) (s : State) :
    exec i s = .next (s.observe r) := by
  cases i <;> cases h <;> rfl

theorem step_of_frame {r : List Byte} (hin : s.inputs = .packet (.frame r) :: rest) :
    step s = .next ((s.withInputs rest).observe r) := by
  cases hd : decodeFrame r with
  | some i =>
    rw [step_of_decode_ok hin (decode_frame_eq_ok_iff.2 hd)]
    exact exec_of_encode_frame (encode_of_decodeFrame hd) _
  | none =>
    rw [step_cons hin]
    simp [onInput, onPacket, hd]

theorem classify_wireDeselect : classify wireDeselect = .deselect := by decide

/-! In the next three, `congr` closes what `simp` leaves: the two sides decide the same condition by different procedures. -/

theorem classify_wireSelectApp (pcb c0 c1 : Byte) :
    classify (wireSelectApp pcb c0 c1) =
      if c0 = lo (crc16 (bodySelectApp pcb)) ∧ c1 = hi (crc16 (bodySelectApp pcb)) then .selectNfcT4App pcb
      else .notABlockFrame := by
  simp [classify, wireSelectApp, bodySelectApp, Config.t4Aid, crcBytes, slice, byteAt]
  congr

theorem classify_wireSelectFile (pcb : Byte) (fileId : Half) (c0 c1 : Byte) :
    classify (wireSelectFile pcb fileId c0 c1) =
      if c0 = lo (crc16 (bodySelectFile fileId pcb)) ∧ c1 = hi (crc16 (bodySelectFile fileId pcb)) then
        .selectFile pcb fileId
      else .notABlockFrame := by
  simp [classify, wireSelectFile, bodySelectFile, crcBytes, slice, byteAt]
  congr

theorem classify_wireReadBinary (pcb : Byte) (offset : Half) (length c0 c1 : Byte) :
    classify (wireReadBinary pcb offset length c0 c1) =
      if c0 = lo (crc16 (bodyReadBinary offset length pcb)) ∧ c1 = hi (crc16 (bodyReadBinary offset length pcb)) then
        .readBinary pcb offset length
      else .notABlockFrame := by
  simp [classify, wireReadBinary, bodyReadBinary, crcBytes, slice, byteAt]
  congr

/-- Settles O50: a wire row's instruction observes the row's bytes, and `classify` compares their last two with the
CRC of those before them. -/
theorem theMonitorClassifiesCapturedFrames : Obligations.TheMonitorClassifiesCapturedFrames := by
  unfold Obligations.TheMonitorClassifiesCapturedFrames
  refine ⟨fun s => rfl, fun s => ?deselect, fun s pcb c0 c1 => ?app, fun s pcb fileId c0 c1 => ?file,
    fun s pcb offset length c0 c1 => ?read, fun s bytes rest hin => step_of_frame hin⟩
  case deselect =>
    rw [← classify_wireDeselect]
    rfl
  case app =>
    refine ⟨bodySelectApp pcb, rfl, ?_⟩
    rw [← classify_wireSelectApp]
    rfl
  case file =>
    refine ⟨bodySelectFile fileId pcb, rfl, ?_⟩
    rw [← classify_wireSelectFile]
    rfl
  case read =>
    refine ⟨bodyReadBinary offset length pcb, rfl, ?_⟩
    rw [← classify_wireReadBinary]
    rfl

end Sys2Proof.Machine
end

section
/-! PROOFS. A command word: what a step on it does during an exchange and in an idle block (60_exceptions.md R133,
R135, R139), the reserved words (30_encoding.md R69), and O36, O37, O42, O43. -/

namespace Sys2Proof.Machine

open Safety

variable {s t : State} {i : Instr} {p : Packet} {w : CmdWord} {buf : Option (List Nat)} {rest : List Input}

theorem isFrame_operation (op : BitVec 4) (chk : Bool) (a8 : Byte) (a16 : Half) (len : Byte) (l : List Byte) :
    isFrame (operation op chk a8 a16 len l) = false := by
  unfold operation
  split_ifs <;> rfl

theorem isFrame_reservedInstr (w : CmdWord) : isFrame (reservedInstr w) = false := by
  unfold reservedInstr
  split_ifs <;> rfl

/-- No command word decodes to a wire-frame row. -/
theorem isFrame_of_decodeCommand (h : decodeCommand w buf = .ok i) : isFrame i = false := by
  obtain ⟨-, rfl⟩ | ⟨-, -, rfl⟩ := decodeCommand_eq_ok_iff.1 h
  · exact isFrame_reservedInstr w
  · exact isFrame_operation _ _ _ _ _ _

/-- During an exchange an instruction is refused, or is a captured frame and no command (60_exceptions.md R135). -/
theorem ExecEffect.of_busy (hs : s.xphase ≠ .idle) (e : ExecEffect i s t) :
    t = s.deliver (.refused .busy) ∨ (isFrame i = true ∧ ∃ b, t = s.observe b) := by
  cases e with
  | busy _ => exact .inl rfl
  | observed b hf => exact .inr ⟨hf, b, rfl⟩
  | crc v p r hc h hp => exact absurd h hs
  | finalized v r hc h hv => exact absurd h hs
  | usage k hc h => exact absurd h hs
  | exchange l f h hx => exact absurd h hs
  | reserved w hr h => exact absurd h hs

/-- During an exchange a packet is a refused command or a captured frame. -/
theorem PacketEffect.of_busy (hs : s.xphase ≠ .idle) (e : PacketEffect p s t) :
    t = s.deliver (.refused .busy) ∨ ∃ b, t = s.observe b := by
  cases e with
  | ran i hd e => exact (e.of_busy hs).imp_right And.right
  | busy _ => exact .inl rfl
  | refused r hd h => exact absurd h hs
  | observed b hp hd => exact .inr ⟨b, rfl⟩

theorem step_of_decodeCommand_error {reason : RefusalReason} (hin : s.inputs = .packet (.command w buf) :: rest)
    (hd : decodeCommand w buf = .error reason) :
    step s = whenIdle (s.withInputs rest) ((s.withInputs rest).deliver (.refused reason)) := by
  rw [step_cons hin]
  simp [onInput, onPacket, hd]

/-- During an exchange a command word, whether or not it decodes, is refused (R139 order 1). -/
theorem step_of_command_of_busy (hs : s.xphase ≠ .idle) (hin : s.inputs = .packet (.command w buf) :: rest) :
    step s = .next ((s.withInputs rest).deliver (.refused .busy)) := by
  have hs' : (s.withInputs rest).xphase ≠ .idle := hs
  cases hd : decodeCommand w buf with
  | ok i =>
    obtain ⟨t, ht, e⟩ := exec_effect i (s.withInputs rest)
    rw [step_of_decode_ok hin (decode_command_eq_ok_iff.2 hd), ht]
    obtain rfl | ⟨hf, -⟩ := e.of_busy hs'
    · rfl
    · simp [isFrame_of_decodeCommand hd] at hf
  | error reason => rw [step_of_decodeCommand_error hin hd, whenIdle_of_busy hs']

/-- Settles O36: a word that decodes runs an instruction that is no captured frame, and any other is refused. -/
theorem everyCommandIsBusyDuringAnExchange : Obligations.EveryCommandIsBusyDuringAnExchange := by
  unfold Obligations.EveryCommandIsBusyDuringAnExchange
  exact fun s w buf rest => step_of_command_of_busy

/-- Settles O42: the refusal is the work of an idle block's step. -/
theorem aRefusedWordOnlyTellsTheReason : Obligations.ARefusedWordOnlyTellsTheReason := by
  unfold Obligations.ARefusedWordOnlyTellsTheReason
  intro s w buf rest reason hs hin hd
  rw [step_of_decodeCommand_error hin (decode_command_eq_error_iff.1 hd)]
  exact whenIdle_of_idle (s := s.withInputs rest) hs _

/-! ### Reserved words -/

theorem le_opField_iff : 0x9 ≤ opField w ↔ 9 ≤ w.toNat % 16 := by
  have h := opField_toNat w
  bv_omega

/-- A reserved row's word, and the refusal that records it (R69, R135). -/
theorem exec_of_isReserved (hi : isReserved i = true) (hs : s.xphase = .idle) :
    ∃ w, encode i = .command w none ∧ 0x9 ≤ opField w ∧ exec i s = .next (s.deliver (.refused (.reservedOp w))) := by
  cases i with
  | reservedOp9 upper =>
    refine ⟨_, rfl, ?_, whenIdle_of_idle hs _⟩
    rw [reservedWord9, opField_append]
    decide
  | reservedOpAB upper low =>
    refine ⟨_, rfl, ?_, whenIdle_of_idle hs _⟩
    obtain ⟨hge, -⟩ := code_AB low
    rwa [reservedWordAB, opField_append]
  | reservedOpCF upper low =>
    refine ⟨_, rfl, ?_, whenIdle_of_idle hs _⟩
    obtain ⟨hge, -⟩ := code_CF low
    rwa [reservedWordCF, opField_append]
  | _ => cases hi

/-- Settles O43: a reserved row is refused with its own word, and a reserved word decodes to the row of that word. -/
theorem reservedCodesAreRefusedWithTheirWord : Obligations.ReservedCodesAreRefusedWithTheirWord := by
  unfold Obligations.ReservedCodesAreRefusedWithTheirWord
  refine ⟨fun i s hi hs => ?row, fun s w buf rest hs hin hw => ?word⟩
  case row =>
    obtain ⟨w, henc, hop, hexec⟩ := exec_of_isReserved hi hs
    exact ⟨w, henc, le_opField_iff.1 hop, hexec⟩
  case word =>
    have hop : 0x9 ≤ opField w := le_opField_iff.2 hw
    obtain ⟨v, henc, -, hexec⟩ :=
      exec_of_isReserved (s := s.withInputs rest) (isReserved_reservedInstr w) hs
    obtain ⟨rfl, -⟩ := Packet.command.inj ((encode_reservedInstr hop).symm.trans henc)
    rw [step_of_decode_ok hin (decode_command_eq_ok_iff.2 (decodeCommand_of_reserved hop))]
    exact hexec

/-! ### One outcome or one exchange -/

theorem isProtocolOp_of_exchangeOf {cfg : Params} {l : Latch} {f : List Byte} (h : exchangeOf cfg i = some (l, f)) :
    isProtocolOp i = true := by
  cases i <;> cases h <;> rfl

/-- Settles O37: of the effects a packet can have, a command has all but the observing of a frame. -/
theorem aCommandIsAnsweredOrStartsAnExchange : Obligations.ACommandIsAnsweredOrStartsAnExchange := by
  unfold Obligations.ACommandIsAnsweredOrStartsAnExchange
  intro s w buf rest hin
  obtain ⟨t, ht, e⟩ := onPacket_effect (.command w buf) (s.withInputs rest)
  refine ⟨t, (step_cons hin).trans ht, ?_⟩
  cases e with
  | busy h => exact .inl ⟨_, rfl, rfl, rfl, rfl⟩
  | refused r hd h => exact .inl ⟨_, rfl, rfl, rfl, rfl⟩
  | observed b hp hd => cases hp
  | ran i hd e =>
    cases e with
    | busy h => exact .inl ⟨_, rfl, rfl, rfl, rfl⟩
    | crc v p r hc h hp => exact .inl ⟨_, rfl, rfl, rfl, rfl⟩
    | finalized v r hc h hv => exact .inl ⟨_, rfl, rfl, rfl, rfl⟩
    | usage k hc h => exact .inl ⟨_, rfl, rfl, rfl, rfl⟩
    | reserved v hr h => exact .inl ⟨_, rfl, rfl, rfl, rfl⟩
    | exchange l f h hx => exact .inr ⟨h, rfl, rfl, i, f, hd, isProtocolOp_of_exchangeOf hx, rfl⟩
    | observed b hf => simp [isFrame_of_decodeCommand (decode_command_eq_ok_iff.1 hd)] at hf

end Sys2Proof.Machine
end

section
/-! PROOFS. Reset (70_reset_and_hazards.md R151 to R153) and the hang (60_exceptions.md R142), and O35, O53, O59. -/

namespace Sys2Proof.Machine

variable {s t : State} {p : Packet} {rest : List Input}

/-! ### Reset -/

theorem step_reset_of_idle (hin : s.inputs = .reset :: rest) (hs : s.xphase = .idle) :
    step s = .next (s.withInputs rest).resetBlock :=
  (step_cons hin).trans (if_pos hs)

theorem step_reset_of_busy (hin : s.inputs = .reset :: rest) (hs : s.xphase ≠ .idle) :
    step s = .refused .resetDuringExchange :=
  (step_cons hin).trans (if_neg hs)

/-- Settles O53: the values of reset are those of `State.reset`, and `onReset` asks whether the block is idle. -/
theorem resetLeavesTheAccumulatorWithoutAValue : Obligations.ResetLeavesTheAccumulatorWithoutAValue := by
  unfold Obligations.ResetLeavesTheAccumulatorWithoutAValue
  exact ⟨⟨rfl, rfl, rfl, rfl⟩, fun s rest => step_reset_of_idle, fun s rest => step_reset_of_busy⟩

/-! ### A hang -/

/-- From `s` to `t` the block stays in its wait, and the caller is told only that other commands are refused. -/
structure StaysHung (s t : State) : Prop where
  fcs : t.fcs = s.fcs
  crcPhase : t.crcPhase = s.crcPhase
  xphase : t.xphase = s.xphase
  xlatch : t.xlatch = s.xlatch
  transport : t.transport = s.transport
  inputs : t.inputs <:+ s.inputs
  told : ∃ told, t.reports = s.reports ++ told ∧ told.length + t.inputs.length ≤ s.inputs.length ∧
    ∀ r ∈ told, r = .refused .busy

theorem StaysHung.refl (s : State) : StaysHung s s :=
  ⟨rfl, rfl, rfl, rfl, rfl, List.suffix_rfl, [], by simp⟩

theorem StaysHung.trans {u : State} (h : StaysHung s t) (h' : StaysHung t u) : StaysHung s u := by
  obtain ⟨told, hr, hlen, hbusy⟩ := h.told
  obtain ⟨told', hr', hlen', hbusy'⟩ := h'.told
  refine ⟨h'.fcs.trans h.fcs, h'.crcPhase.trans h.crcPhase, h'.xphase.trans h.xphase, h'.xlatch.trans h.xlatch,
    h'.transport.trans h.transport, h'.inputs.trans h.inputs, told ++ told', ?_, ?_, ?_⟩
  · rw [hr', hr, List.append_assoc]
  · rw [List.length_append]
    omega
  · intro r hr
    exact (List.mem_append.1 hr).elim (hbusy r) (hbusy' r)

/-- A refused command or an observed frame, the packet taken. -/
theorem StaysHung.of_packet (hin : s.inputs = .packet p :: rest)
    (ht : t = (s.withInputs rest).deliver (.refused .busy) ∨ ∃ b, t = (s.withInputs rest).observe b) :
    StaysHung s t := by
  have hsuffix : rest <:+ s.inputs := hin ▸ List.suffix_cons _ _
  obtain rfl | ⟨b, rfl⟩ := ht
  · exact ⟨rfl, rfl, rfl, rfl, rfl, hsuffix, [.refused .busy], rfl, by simp [hin, Nat.add_comm], by simp⟩
  · exact ⟨rfl, rfl, rfl, rfl, rfl, hsuffix, [], by simp, by simp [hin], by simp⟩

/-- Only packets are pending: no transport call returns, and no reset is asked for. -/
def OnlyPackets (s : State) : Prop := ∀ e ∈ s.inputs, ∃ p, e = .packet p

theorem step_staysHung (hs : s.xphase ≠ .idle) (hp : OnlyPackets s) : ∃ t, step s = .next t ∧ StaysHung s t := by
  cases hin : s.inputs with
  | nil => exact ⟨s, step_nil hin, .refl s⟩
  | cons e rest =>
    obtain ⟨p, rfl⟩ := hp e (by simp [hin])
    obtain ⟨t, ht, effect⟩ := onPacket_effect p (s.withInputs rest)
    exact ⟨t, (step_cons hin).trans ht, .of_packet hin (effect.of_busy hs)⟩

theorem run_staysHung (k : Nat) (hs : s.xphase ≠ .idle) (hp : OnlyPackets s) :
    ∃ t, Host.Core.run Sys2Proof.core k s = .next t ∧ StaysHung s t := by
  induction k generalizing s with
  | zero => exact ⟨s, rfl, .refl s⟩
  | succ k ih =>
    obtain ⟨t, hstep, ht⟩ := step_staysHung hs hp
    obtain ⟨u, hrun, hu⟩ := ih (ht.xphase ▸ hs) (fun e he => hp e (ht.inputs.subset he))
    exact ⟨u, (core_run_succ hstep).trans hrun, ht.trans hu⟩

/-- Settles O35: every step of a hung block keeps it hung, and so does every run. -/
theorem aHungCallIsNeverLeft : Obligations.AHungCallIsNeverLeft := by
  unfold Obligations.AHungCallIsNeverLeft
  refine ⟨fun k s hs hp => ?_, fun s rest hs hin => step_reset_of_busy hin hs⟩
  obtain ⟨t, hrun, h⟩ := run_staysHung k hs hp
  exact ⟨t, hrun, h.fcs, h.crcPhase, h.xphase, h.xlatch, h.transport⟩

/-- Settles O59: what a hung block tells is bounded by the packets it takes, and is `BUSY`. -/
theorem aHangDeliversNoOutcome : Obligations.AHangDeliversNoOutcome := by
  unfold Obligations.AHangDeliversNoOutcome
  intro k s hs hp
  obtain ⟨t, hrun, h⟩ := run_staysHung k hs hp
  obtain ⟨told, hr, hlen, hbusy⟩ := h.told
  exact ⟨t, told, hrun, hr, by omega, hbusy⟩

end Sys2Proof.Machine
end

section
/-! PROOFS. The parameters, which no step changes (00_scope.md R10), and O58. -/

namespace Sys2Proof.Machine

/-- Settles O58: no effect of a step writes `cfg`. -/
theorem parametersNeverChange : Obligations.ParametersNeverChange := by
  unfold Obligations.ParametersNeverChange
  intro s t h
  cases step_cases h with
  | stays hi => rfl
  | packet p rest hi e =>
    cases e with
    | ran i hd e => cases e <;> rfl
    | _ => rfl
  | wrote st reached rest hi e =>
    obtain ⟨l, -, -, ⟨-, rfl⟩ | ⟨-, -, rfl⟩ | ⟨n, -, -, rfl⟩⟩ := onWrote_cases e <;> rfl
  | got st data rest hi e =>
    obtain ⟨l, n, -, -, -, rfl⟩ := onGot_cases e
    rfl
  | reset rest hi hs => rfl

end Sys2Proof.Machine
end

section
/-! PROOFS. The invariant of the registers (10_state.md R22, R23, R31, 42_exchange.md R116): each update of the state
keeps it, so every step does, and O55. -/

namespace Sys2Proof.Machine

open Safety

variable {s t : State} {i : Instr} {p : Packet} {l : Latch} {f : List Byte}

/-- The invariant speaks of the parameters and the four registers alone. -/
theorem inv_of_registers_eq (hi : Inv s) (hcfg : t.cfg = s.cfg) (hfcs : t.fcs = s.fcs)
    (hphase : t.crcPhase = s.crcPhase) (hx : t.xphase = s.xphase) (hl : t.xlatch = s.xlatch) : Inv t := by
  obtain ⟨hseeded, hlatched, hlegal, hreading⟩ := hi
  constructor
  · rwa [hfcs, hphase]
  · rwa [hl, hx]
  · rwa [hl, hcfg]
  · rwa [hl, hx]

theorem inv_deliver (hi : Inv s) (r : Report) : Inv (s.deliver r) := inv_of_registers_eq hi rfl rfl rfl rfl rfl

/-- An accumulator with a value and a phase that says so keeps the invariant. -/
theorem inv_setCrc (hi : Inv s) (v : Half) {q : CrcPhase} (hq : q ≠ .unseeded) : Inv (s.setCrc v q) where
  seeded := by simp [hq]
  latched := hi.latched
  legal := hi.legal
  reading := hi.reading

theorem inv_endExchange (hi : Inv s) : Inv s.endExchange where
  seeded := hi.seeded
  latched := by simp
  legal := nofun
  reading := nofun

theorem inv_record (hi : Inv s) (e : TransportEvent) : Inv (s.record e) := inv_of_registers_eq hi rfl rfl rfl rfl rfl

theorem inv_beginRead {n : Nat} (hi : Inv s) (hl : s.xlatch = some l) (hn : l.n = some n) : Inv (s.beginRead n) where
  seeded := hi.seeded
  latched := by simp [hl]
  legal := hi.legal
  reading := by
    intro m hm _
    obtain rfl : l = m := Option.some.inj (hl.symm.trans hm)
    simp [hn]

/-- The latch an operation fills is a legal one (10_state.md R31, 42_exchange.md R116). -/
theorem latchLegal_of_exchangeOf {cfg : Params} (hx : exchangeOf cfg i = some (l, f)) : LatchLegal cfg l := by
  cases i <;> cases hx
  case killRfSelectI2c => exact ⟨rfl, rfl⟩
  case selectNfcT4App pcb chk => rfl
  case selectFile fileId pcb chk => rfl
  case readBinary offset length pcb chk =>
    exact ⟨binaryReadLength length, rfl, by simp [binaryReadLength], by simp only [binaryReadLength]; omega⟩
  case deselect =>
    refine ⟨rfl, ?_⟩
    cases hd : cfg.deselectRead with
    | none => exact .inl ⟨rfl, by simp [deselectReadLength, hd]⟩
    | zeroLength => exact .inr ⟨rfl, by simp [deselectReadLength, hd]⟩

theorem inv_beginExchange (hi : Inv s) (hx : exchangeOf s.cfg i = some (l, f)) : Inv (s.beginExchange l f) where
  seeded := hi.seeded
  latched := by simp
  legal := by
    intro m hm
    obtain rfl : l = m := Option.some.inj hm
    exact latchLegal_of_exchangeOf hx
  reading := nofun

theorem inv_resetBlock (s : State) : Inv s.resetBlock where
  seeded := by simp
  latched := by simp
  legal := nofun
  reading := nofun

theorem ExecEffect.inv (e : ExecEffect i s t) (hi : Inv s) : Inv t := by
  cases e with
  | busy h => exact inv_deliver hi _
  | crc v q r hc h hq => exact inv_deliver (inv_setCrc hi v hq) _
  | finalized v r hc h hv =>
    have hs : s.setCrcPhase .finalized = s.setCrc v .finalized := by simp [State.setCrcPhase, State.setCrc, hv]
    rw [hs]
    exact inv_deliver (inv_setCrc hi v (by simp)) _
  | usage k hc h => exact inv_deliver hi _
  | exchange l f h hx => exact inv_beginExchange hi hx
  | reserved w hr h => exact inv_deliver hi _
  | observed b hf => exact inv_of_registers_eq hi rfl rfl rfl rfl rfl

theorem PacketEffect.inv (e : PacketEffect p s t) (hi : Inv s) : Inv t := by
  cases e with
  | ran i hd e => exact e.inv hi
  | busy h => exact inv_deliver hi _
  | refused r hd h => exact inv_deliver hi _
  | observed b hp hd => exact inv_of_registers_eq hi rfl rfl rfl rfl rfl

theorem onWrote_inv {st : Int} {reached : Nat} (hi : Inv s) (h : onWrote st reached s = .next t) : Inv t := by
  obtain ⟨l, -, hl, ⟨-, rfl⟩ | ⟨-, -, rfl⟩ | ⟨n, -, hn, rfl⟩⟩ := onWrote_cases h
  · exact inv_deliver (inv_endExchange (inv_record hi _)) _
  · exact inv_deliver (inv_endExchange (inv_record hi _)) _
  · exact inv_beginRead (inv_record hi _) hl hn

theorem onGot_inv {st : Int} {data : List Byte} (hi : Inv s) (h : onGot st data s = .next t) : Inv t := by
  obtain ⟨l, n, -, -, -, rfl⟩ := onGot_cases h
  exact inv_deliver (inv_endExchange (inv_record hi _)) _

theorem inv_withInputs (hi : Inv s) (rest : List Input) : Inv (s.withInputs rest) :=
  inv_of_registers_eq hi rfl rfl rfl rfl rfl

/-- Settles O55: each effect of a step is a chain of updates that keep the invariant. -/
theorem everyStepKeepsTheRegisterInvariant : Obligations.EveryStepKeepsTheRegisterInvariant := by
  unfold Obligations.EveryStepKeepsTheRegisterInvariant
  intro s t hi h
  cases step_cases h with
  | stays hin => exact hi
  | packet p rest hin e => exact e.inv (inv_withInputs hi rest)
  | wrote st reached rest hin e => exact onWrote_inv (inv_withInputs hi rest) e
  | got st data rest hin e => exact onGot_inv (inv_withInputs hi rest) e
  | reset rest hin hs => exact inv_resetBlock _

end Sys2Proof.Machine
end

section
/-! PROOFS. The conversation with the transport (20_memory.md R57, 30_encoding.md R82, 42_exchange.md R128, R129):
where it stands before and after each effect of a step, and O54, O56. -/

namespace Sys2Proof.Machine

open Safety

variable {s t : State} {i : Instr} {p : Packet} {l : Latch} {f : List Byte}

theorem busRun_append (cfg : Params) (b : BusState) (es es' : List TransportEvent) :
    busRun cfg b (es ++ es') = (busRun cfg b es).bind fun b' => busRun cfg b' es' := by
  induction es generalizing b with
  | nil => rfl
  | cons e es ih =>
    rw [List.cons_append, busRun, busRun]
    cases busNext cfg b e with
    | none => rfl
    | some b' => exact ih b'

theorem busRun_singleton (cfg : Params) (b : BusState) (e : TransportEvent) : busRun cfg b [e] = busNext cfg b e := by
  rw [busRun]
  cases busNext cfg b e <;> rfl

/-- A legal conversation stays one when the new calls take it to where the exchange registers now say it stands. -/
theorem conversation_of_append {new : List TransportEvent} (hc : Conversation s) (hcfg : t.cfg = s.cfg)
    (ht : t.transport = s.transport ++ new) (hnow : busRun s.cfg (busNow s) new = some (busNow t)) :
    Conversation t := by
  rw [Conversation, hcfg, ht, busRun_append, show busRun s.cfg .quiet s.transport = _ from hc]
  exact hnow

theorem conversation_of_no_call (hc : Conversation s) (hcfg : t.cfg = s.cfg) (ht : t.transport = s.transport)
    (hnow : busNow t = busNow s) : Conversation t :=
  conversation_of_append (new := []) hc hcfg (by rw [ht, List.append_nil]) (by rw [hnow, busRun])

/-- The read a latch holds is the one its frame calls for (42_exchange.md R116, R128). -/
theorem expectedRead_of_exchangeOf {cfg : Params} (hx : exchangeOf cfg i = some (l, f)) :
    expectedRead cfg (classify f) = l.n := by
  cases i <;> cases hx
  case killRfSelectI2c => rfl
  case selectNfcT4App pcb chk => rw [classify_frameSelectApp]; rfl
  case selectFile fileId pcb chk => rw [classify_frameSelectFile]; rfl
  case readBinary offset length pcb chk => rw [classify_frameReadBinary]; rfl
  case deselect => rw [classify_frameDeselect]; rfl

theorem busNow_of_idle (hs : s.xphase = .idle) : busNow s = .quiet := by
  simp [busNow, hs]

theorem busNow_of_waitWrite (hs : s.xphase = .waitWrite) (hl : s.xlatch = some l) : busNow s = .writing l.n := by
  simp [busNow, hs, hl]

theorem busNow_of_waitRead (hs : s.xphase = .waitRead) : busNow s = .reading := by
  simp [busNow, hs]

theorem ExecEffect.conversation (e : ExecEffect i s t) (hc : Conversation s) : Conversation t := by
  cases e with
  | exchange l f h hx =>
    refine conversation_of_append hc rfl rfl ?_
    rw [busRun_singleton, busNow_of_idle h, busNow_of_waitWrite rfl rfl]
    simp [busNext, classify_exchangeOf_frame hx, expectedRead_of_exchangeOf hx]
  | _ => exact conversation_of_no_call hc rfl rfl rfl

theorem PacketEffect.conversation (e : PacketEffect p s t) (hc : Conversation s) : Conversation t := by
  cases e with
  | ran i hd e => exact e.conversation hc
  | _ => exact conversation_of_no_call hc rfl rfl rfl

theorem onWrote_conversation {st : Int} {reached : Nat} (hc : Conversation s) (h : onWrote st reached s = .next t) :
    Conversation t := by
  obtain ⟨l, hp, hl, hcase⟩ := onWrote_cases h
  have hnow := busNow_of_waitWrite hp hl
  obtain ⟨hst, rfl⟩ | ⟨rfl, hn, rfl⟩ | ⟨n, rfl, hn, rfl⟩ := hcase
  · refine conversation_of_append (new := [.wrote st reached]) hc rfl rfl ?_
    rw [busRun_singleton, hnow, busNow_of_idle rfl]
    simp [busNext, hst]
  · refine conversation_of_append (new := [.wrote 0 reached]) hc rfl rfl ?_
    rw [busRun_singleton, hnow, busNow_of_idle rfl]
    simp [busNext, hn]
  · refine conversation_of_append (new := [.wrote 0 reached, .read s.cfg.tagAddr n]) hc rfl (by simp) ?_
    rw [hnow, busNow_of_waitRead rfl]
    simp [busRun, busNext, hn]

theorem onGot_conversation {st : Int} {data : List Byte} (hc : Conversation s) (h : onGot st data s = .next t) :
    Conversation t := by
  obtain ⟨l, n, hp, -, -, rfl⟩ := onGot_cases h
  refine conversation_of_append (new := [.got st data]) hc rfl rfl ?_
  rw [busRun_singleton, busNow_of_waitRead hp, busNow_of_idle rfl]
  rfl

/-- Settles O56: each effect of a step appends events that take the conversation to where the registers then stand. -/
theorem everyStepKeepsTheConversationLegal : Obligations.EveryStepKeepsTheConversationLegal := by
  unfold Obligations.EveryStepKeepsTheConversationLegal
  intro s t hc h
  have hrest : ∀ rest, Conversation (s.withInputs rest) := fun rest => conversation_of_no_call hc rfl rfl rfl
  cases step_cases h with
  | stays hin => exact hc
  | packet p rest hin e => exact e.conversation (hrest rest)
  | wrote st reached rest hin e => exact onWrote_conversation (hrest rest) e
  | got st data rest hin e => exact onGot_conversation (hrest rest) e
  | reset rest hin hs => exact conversation_of_no_call hc rfl rfl (by rw [busNow_of_idle rfl, busNow_of_idle hs])

/-- Settles O54: the registers are those that a reset leaves, and the empty log is quiet. -/
theorem resetStateMeetsTheInvariants : Obligations.ResetStateMeetsTheInvariants := by
  unfold Obligations.ResetStateMeetsTheInvariants
  exact fun cfg inputs => ⟨inv_resetBlock { State.reset with cfg := cfg, inputs := inputs }, rfl⟩

end Sys2Proof.Machine
end

section
/-! PROOFS. Where the machine stops (42_exchange.md R114, 70_reset_and_hazards.md R151), and O57. -/

namespace Sys2Proof.Machine

open Safety

variable {s : State} {p : Packet}

theorem exists_latch_of_inv (hi : Inv s) (hs : s.xphase ≠ .idle) : ∃ l, s.xlatch = some l :=
  Option.ne_none_iff_exists'.1 (mt hi.latched.1 hs)

theorem onWrote_of_not_waitWrite (st : Int) (reached : Nat) (hs : s.xphase ≠ .waitWrite) :
    onWrote st reached s = .fault .answerWithoutCall := by
  unfold onWrote
  split
  · next hp _ => exact absurd hp hs
  · next hp _ => exact absurd hp hs
  · rfl
  · rfl

theorem onGot_of_not_waitRead (st : Int) (data : List Byte) (hs : s.xphase ≠ .waitRead) :
    onGot st data s = .fault .answerWithoutCall := by
  unfold onGot
  split
  · next hp _ => exact absurd hp hs
  · next hp _ => exact absurd hp hs
  · rfl
  · rfl

theorem onWrote_of_inv (st : Int) (reached : Nat) (hi : Inv s) (hs : s.xphase = .waitWrite) :
    ∃ t, onWrote st reached s = .next t := by
  obtain ⟨l, hl⟩ := exists_latch_of_inv hi (by simp [hs])
  by_cases hst : st = 0
  · subst hst
    cases hn : l.n with
    | none => exact ⟨_, onWrote_zero_of_no_read hs hl hn⟩
    | some n => exact ⟨_, onWrote_zero_of_read hs hl hn⟩
  · exact ⟨_, onWrote_of_status_ne_zero hs hl hst⟩

theorem onGot_of_inv (st : Int) (data : List Byte) (hi : Inv s) (hs : s.xphase = .waitRead) :
    ∃ t, onGot st data s = .next t := by
  obtain ⟨l, hl⟩ := exists_latch_of_inv hi (by simp [hs])
  obtain ⟨n, hn⟩ := Option.ne_none_iff_exists'.1 (hi.reading l hl hs)
  exact ⟨_, onGot_of_read hs hl hn⟩

theorem step_packet_next {rest : List Input} (hin : s.inputs = .packet p :: rest) : ∃ t, step s = .next t := by
  obtain ⟨t, ht, -⟩ := onPacket_effect p (s.withInputs rest)
  exact ⟨t, (step_cons hin).trans ht⟩

/-- With the invariant each event has a next state, or stops the machine for a reason that is not the latch. -/
theorem step_ne_latchCorrupt (hi : Inv s) : step s ≠ .fault .latchCorrupt := by
  cases hin : s.inputs with
  | nil => simp [step_nil hin]
  | cons e rest =>
    rw [step_cons hin]
    have hrest := inv_withInputs hi rest
    cases e with
    | packet p =>
      obtain ⟨t, ht, -⟩ := onPacket_effect p (s.withInputs rest)
      simp [onInput, ht]
    | wrote st reached =>
      by_cases hs : (s.withInputs rest).xphase = .waitWrite
      · obtain ⟨t, ht⟩ := onWrote_of_inv st reached hrest hs
        simp [onInput, ht]
      · simp [onInput, onWrote_of_not_waitWrite st reached hs]
    | got st data =>
      by_cases hs : (s.withInputs rest).xphase = .waitRead
      · obtain ⟨t, ht⟩ := onGot_of_inv st data hrest hs
        simp [onInput, ht]
      · simp [onInput, onGot_of_not_waitRead st data hs]
    | reset =>
      by_cases hs : s.xphase = .idle
      · simp [onInput, onReset, hs]
      · simp [onInput, onReset, hs]

/-- Settles O57: with the invariant an answer has a next state exactly where its call is outstanding. -/
theorem onlyImpossibleEventsStopTheMachine : Obligations.OnlyImpossibleEventsStopTheMachine := by
  unfold Obligations.OnlyImpossibleEventsStopTheMachine
  refine ⟨fun s => step_ne_latchCorrupt, fun s p rest => step_packet_next, fun s st reached rest hi hin => ?wrote,
    fun s st data rest hi hin => ?got, fun s rest hin => ?reset, fun s => step_nil⟩
  case wrote =>
    rw [step_cons hin]
    refine ⟨fun ⟨t, ht⟩ => ?_, onWrote_of_inv st reached (inv_withInputs hi rest)⟩
    obtain ⟨l, hp, -⟩ := onWrote_cases ht
    exact hp
  case got =>
    rw [step_cons hin]
    refine ⟨fun ⟨t, ht⟩ => ?_, onGot_of_inv st data (inv_withInputs hi rest)⟩
    obtain ⟨l, n, hp, -⟩ := onGot_cases ht
    exact hp
  case reset =>
    refine ⟨fun ⟨t, ht⟩ => ?_, fun hs => ⟨_, step_reset_of_idle hin hs⟩⟩
    rw [step_cons hin] at ht
    obtain ⟨hidle, -⟩ := onReset_cases ht
    exact hidle

end Sys2Proof.Machine
end

section
/-! PROOFS. What gives the accumulator its value and what takes it away (10_state.md R22, R23, 70_reset_and_hazards.md
R153), and O14, O15. -/

namespace Sys2Proof.Machine

open Safety

variable {s t : State} {i : Instr} {p : Packet}

/-- From `s` to `t` the accumulator keeps a value it has, and a phase that says so. -/
def StaysSeeded (s t : State) : Prop :=
  (s.fcs ≠ none → t.fcs ≠ none) ∧ (s.crcPhase ≠ .unseeded → t.crcPhase ≠ .unseeded)

theorem staysSeeded_of_eq (hfcs : t.fcs = s.fcs) (hp : t.crcPhase = s.crcPhase) : StaysSeeded s t := by
  rw [StaysSeeded, hfcs, hp]
  exact ⟨id, id⟩

theorem ExecEffect.staysSeeded (e : ExecEffect i s t) : StaysSeeded s t := by
  cases e with
  | crc v q r hc h hq => exact ⟨fun _ => nofun, fun _ => hq⟩
  | finalized v r hc h hv => exact ⟨id, fun _ => nofun⟩
  | _ => exact staysSeeded_of_eq rfl rfl

theorem PacketEffect.staysSeeded (e : PacketEffect p s t) : StaysSeeded s t := by
  cases e with
  | ran i hd e => exact e.staysSeeded
  | _ => exact staysSeeded_of_eq rfl rfl

/-- Settles O14: no effect of a step but that of reset takes the value or sets `UNSEEDED`. -/
theorem onlyResetUnseeds : Obligations.OnlyResetUnseeds := by
  unfold Obligations.OnlyResetUnseeds
  intro s t h hreset
  cases step_cases h with
  | stays hin => exact ⟨id, id⟩
  | packet p rest hin e => exact e.staysSeeded
  | wrote st reached rest hin e =>
    obtain ⟨hfcs, hp⟩ := (onWrote_ignoresAccumulator st reached).keeps e
    exact staysSeeded_of_eq hfcs hp
  | got st data rest hin e =>
    obtain ⟨hfcs, hp⟩ := (onGot_ignoresAccumulator st data).keeps e
    exact staysSeeded_of_eq hfcs hp
  | reset rest hin hs => simp [hin] at hreset

theorem ExecEffect.fcs_of_not_isCrcOp (e : ExecEffect i s t) (hi : isCrcOp i = false) : t.fcs = s.fcs := by
  cases e with
  | crc v q r hc h hq => simp [hi] at hc
  | _ => rfl

theorem crcUpdateWork_fcs_of_none (b : Byte) (hs : s.fcs = none) : (crcUpdateWork b s).fcs = none := by
  unfold crcUpdateWork
  split_ifs
  all_goals simp [hs]

theorem crcFinalizeWork_fcs_of_none (hs : s.fcs = none) : (crcFinalizeWork s).fcs = none := by
  unfold crcFinalizeWork
  split_ifs
  all_goals simp [hs]

/-- The instructions that give `fcs` its first value, and the value. -/
theorem exec_seeds {v : Half} (h : exec i s = .next t) (hs : s.fcs = none) (ht : t.fcs = some v) :
    (i = .crcStart ∧ v = 0x6363) ∨ ∃ buf, i = .crcCompute buf ∧ v = crc16 buf := by
  have hnone : t.fcs ≠ none := by simp [ht]
  cases i with
  | crcStart =>
    obtain ⟨-, rfl⟩ | ⟨-, rfl⟩ := whenIdle_cases h
    · exact absurd hs hnone
    · exact .inl ⟨rfl, (Option.some.inj ht).symm⟩
  | crcUpdate b =>
    obtain ⟨-, rfl⟩ | ⟨-, rfl⟩ := whenIdle_cases h
    · exact absurd hs hnone
    · exact absurd (crcUpdateWork_fcs_of_none b hs) hnone
  | crcFinalize =>
    obtain ⟨-, rfl⟩ | ⟨-, rfl⟩ := whenIdle_cases h
    · exact absurd hs hnone
    · exact absurd (crcFinalizeWork_fcs_of_none hs) hnone
  | crcCompute buf =>
    obtain ⟨-, rfl⟩ | ⟨-, rfl⟩ := whenIdle_cases h
    · exact absurd hs hnone
    · exact .inr ⟨buf, rfl, (Option.some.inj ht).symm⟩
  | _ => exact absurd ((exec_cases h).fcs_of_not_isCrcOp rfl ▸ hs) hnone

/-- Settles O15: of all effects only an instruction writes a value, and of those only the two that seed do so from
`⊥`. -/
theorem onlyStartOrComputeSeeds : Obligations.OnlyStartOrComputeSeeds := by
  unfold Obligations.OnlyStartOrComputeSeeds
  intro s t v h hs ht
  have hnone : t.fcs ≠ none := by simp [ht]
  cases step_cases h with
  | stays hin => exact absurd hs hnone
  | packet p rest hin e =>
    refine ⟨p, rest, hin, ?_⟩
    cases e with
    | ran i hd e =>
      rw [step_of_decode_ok hin hd] at h
      obtain ⟨rfl, rfl⟩ | ⟨buf, rfl, rfl⟩ := exec_seeds h hs ht
      · exact .inl ⟨hd, rfl⟩
      · exact .inr ⟨buf, hd, rfl⟩
    | _ => exact absurd hs hnone
  | wrote st reached rest hin e =>
    obtain ⟨hfcs, -⟩ := (onWrote_ignoresAccumulator st reached).keeps e
    exact absurd (hfcs.trans hs) hnone
  | got st data rest hin e =>
    obtain ⟨hfcs, -⟩ := (onGot_ignoresAccumulator st data).keeps e
    exact absurd (hfcs.trans hs) hnone
  | reset rest hin hs => exact absurd rfl hnone

end Sys2Proof.Machine
end

section
/-! PROOFS. The recurrence as a shift and a table entry, and the bitwise form as a linear loop (40_crc16.md R89, R92),
and O8. -/

namespace Sys2Proof.Machine

/-! ### The recurrence splits off its table -/

/-- The entry for `x` of the table form of the CRC: one step from the register 0. -/
def crcTable (x : Byte) : Half := crcStep 0 x

theorem getLsbD_00FF (i : Nat) (h : i < 16) : (0x00FF : Half).getLsbD i = decide (i < 8) := by
  revert i
  decide

theorem setWidth_lo (v : Half) : (lo v).setWidth 16 = v &&& 0x00FF := by
  apply BitVec.eq_of_getLsbD_eq
  intro i hi
  rw [BitVec.getLsbD_and, getLsbD_00FF i hi, BitVec.getLsbD_setWidth, lo, BitVec.getLsbD_extractLsb']
  by_cases h8 : i < 8 <;> simp [h8, hi]

/-- The recurrence shifts the register and adds the table's entry for the byte and the register's low byte. -/
theorem crcStep_eq_table (r : Half) (b : Byte) : crcStep r b = (r >>> 8) ^^^ crcTable (lo r ^^^ b) := by
  have hx : (lo r ^^^ b).setWidth 16 = b.setWidth 16 ^^^ (r &&& 0x00FF) := by
    rw [BitVec.setWidth_xor, setWidth_lo, BitVec.xor_comm]
  have hm : ∀ v : Half, v &&& 0xFFFF#16 = v := fun v => BitVec.and_allOnes
  simp [crcTable, crcStep, hx, hm, BitVec.xor_assoc]

/-! ### The bitwise form -/

/-- What the bit shifted out adds to the register in one turn of the loop of R92. -/
def feedback (out : Bool) : Half := if out then 0x8408 else 0

theorem feedback_xor (a b : Bool) : feedback (a ^^ b) = feedback a ^^^ feedback b := by
  revert a b
  decide

theorem shiftOut_succ (n : Nat) (r : Half) :
    shiftOut (n + 1) r = shiftOut n ((r >>> 1) ^^^ feedback (r.getLsbD 0)) := by
  rw [shiftOut, feedback]
  split <;> simp

/-- The loop is linear. -/
theorem shiftOut_xor (n : Nat) (x y : Half) : shiftOut n (x ^^^ y) = shiftOut n x ^^^ shiftOut n y := by
  induction n generalizing x y with
  | zero => rfl
  | succ n ih =>
    rw [shiftOut_succ, shiftOut_succ, shiftOut_succ, ← ih, BitVec.getLsbD_xor, feedback_xor,
      BitVec.ushiftRight_xor_distrib]
    congr 1
    ac_rfl

/-- Bits that are 0 are shifted out without feedback. -/
theorem shiftOut_of_low_zero (n : Nat) (x : Half) (h : ∀ i < n, x.getLsbD i = false) : shiftOut n x = x >>> n := by
  induction n generalizing x with
  | zero => simp [shiftOut]
  | succ n ih =>
    have hx : x.getLsbD 0 = false := h 0 (by omega)
    have hn : ∀ i < n, (x >>> 1).getLsbD i = false := by
      intro i hi
      rw [BitVec.getLsbD_ushiftRight]
      exact h _ (by omega)
    rw [shiftOut, hx, if_neg (by simp), ih _ hn, ← BitVec.shiftRight_add, Nat.add_comm]

/-- The table holds the bitwise form of each byte. -/
theorem shiftOut_eight_byte : ∀ x : Byte, shiftOut 8 (x.setWidth 16) = crcTable x := by
  decide

/-- A register is its high byte in place and its low byte. -/
theorem eq_high_xor_low (r : Half) : r = (r &&& 0xFF00) ^^^ (lo r).setWidth 16 := by
  rw [setWidth_lo]
  apply BitVec.eq_of_getLsbD_eq
  intro i hi
  rw [BitVec.getLsbD_xor, BitVec.getLsbD_and, BitVec.getLsbD_and]
  have hmask : ∀ j < 16, (0xFF00 : Half).getLsbD j = !(0x00FF : Half).getLsbD j := by decide
  rw [hmask i hi]
  cases (0x00FF : Half).getLsbD i <;> simp

theorem getLsbD_and_FF00 (r : Half) : ∀ i < 8, (r &&& 0xFF00).getLsbD i = false := by
  have hmask : ∀ j < 8, (0xFF00 : Half).getLsbD j = false := by decide
  intro i hi
  rw [BitVec.getLsbD_and, hmask i hi, Bool.and_false]

theorem and_FF00_shiftRight (r : Half) : (r &&& 0xFF00) >>> 8 = r >>> 8 := by
  have hmask : ∀ j < 8, (0xFF00 : Half).getLsbD (8 + j) = true := by decide
  apply BitVec.eq_of_getLsbD_eq
  intro i hi
  rw [BitVec.getLsbD_ushiftRight, BitVec.getLsbD_ushiftRight, BitVec.getLsbD_and]
  by_cases h : i < 8
  · rw [hmask i h, Bool.and_true]
  · simp [BitVec.getLsbD_of_ge r (8 + i) (by omega)]

/-- Settles O8: the loop is linear; on the register's high byte it only shifts, and on the rest it is the table. -/
theorem recurrenceEqualsBitwiseForm : Obligations.RecurrenceEqualsBitwiseForm := by
  unfold Obligations.RecurrenceEqualsBitwiseForm
  intro r b
  have hsplit : r ^^^ b.setWidth 16 = (r &&& 0xFF00) ^^^ (lo r ^^^ b).setWidth 16 := by
    rw [BitVec.setWidth_xor, ← BitVec.xor_assoc, ← eq_high_xor_low]
  rw [crcStepBitwise, hsplit, shiftOut_xor, shiftOut_of_low_zero 8 _ (getLsbD_and_FF00 r), and_FF00_shiftRight,
    shiftOut_eight_byte, crcStep_eq_table]

end Sys2Proof.Machine
end

section
/-! PROOFS. The residue (40_crc16.md R100, 41_frame_assembly.md R111, 42_exchange.md R119): which two bytes take a
register to 0, and O10, O11, O24. -/

namespace Sys2Proof.Machine

@[simp] theorem lo_ushiftRight (r : Half) : lo (r >>> 8) = hi r := by
  apply BitVec.eq_of_getLsbD_eq
  intro i h
  simp [lo, hi, h]

@[simp] theorem hi_ushiftRight (r : Half) : hi (r >>> 8) = 0#8 := by
  apply BitVec.eq_of_getLsbD_eq
  intro i h
  simp [hi, h, BitVec.getLsbD_of_ge r (8 + (8 + i)) (by omega)]

/-- A closed sequence folds to 0: each CRC byte is absorbed by the low byte it equals (R94). -/
theorem crc16_append_crcBytes (s : List Byte) : crc16 (s ++ crcBytes s) = 0 := by
  have hhi := crcStep_lo (crc16 s >>> 8)
  rw [lo_ushiftRight] at hhi
  rw [crc16, crcFold_append, ← crc16, crcBytes, crcFold_cons, crcFold_cons, crcFold_nil, crcStep_lo, hhi,
    ← BitVec.shiftRight_add]
  exact BitVec.ushiftRight_eq_zero (by decide)

/-- Settles O10: the two bytes are `crcBytes`. -/
theorem residueOfAClosedSequenceIsZero : Obligations.ResidueOfAClosedSequenceIsZero := by
  unfold Obligations.ResidueOfAClosedSequenceIsZero
  exact crc16_append_crcBytes

/-- Settles O24: the four builders close their bodies, and the kill frame is one byte. -/
theorem closedFramesFoldToZero : Obligations.ClosedFramesFoldToZero := by
  unfold Obligations.ClosedFramesFoldToZero
  exact ⟨fun pcb => crc16_append_crcBytes _, fun fileId pcb => crc16_append_crcBytes _,
    fun offset length pcb => crc16_append_crcBytes _, crc16_append_crcBytes _, by decide⟩

/-- Every entry of the table but the first has a high byte. -/
theorem hi_crcTable_eq_zero_iff : ∀ x : Byte, hi (crcTable x) = 0#8 ↔ x = 0#8 := by
  decide

theorem hi_xor (v w : Half) : hi (v ^^^ w) = hi v ^^^ hi w := BitVec.extractLsb'_xor

theorem hi_crcStep_eq_zero_iff {r : Half} {b : Byte} : hi (crcStep r b) = 0#8 ↔ b = lo r := by
  rw [crcStep_eq_table, hi_xor, hi_ushiftRight, BitVec.zero_xor, hi_crcTable_eq_zero_iff, BitVec.xor_eq_zero_iff]
  exact eq_comm

/-- Two bytes take the register to 0 exactly when they are its own, low byte first. -/
theorem crcStep_crcStep_eq_zero_iff {r : Half} {c0 c1 : Byte} :
    crcStep (crcStep r c0) c1 = 0 ↔ c0 = lo r ∧ c1 = hi r := by
  constructor
  · intro h
    have h1 : c1 = lo (crcStep r c0) := hi_crcStep_eq_zero_iff.1 (by rw [h]; rfl)
    rw [h1, crcStep_lo] at h
    have h0 : c0 = lo r := by
      rw [← hi_crcStep_eq_zero_iff, ← lo_ushiftRight, h]
      rfl
    rw [h0, crcStep_lo, lo_ushiftRight] at h1
    exact ⟨h0, h1⟩
  · rintro ⟨rfl, rfl⟩
    rw [crcStep_lo, ← lo_ushiftRight, crcStep_lo, ← BitVec.shiftRight_add]
    exact BitVec.ushiftRight_eq_zero (by decide)

theorem crcOk_append (s : List Byte) (c0 c1 : Byte) :
    crcOk (s ++ [c0, c1]) = true ↔ c0 = lo (crc16 s) ∧ c1 = hi (crc16 s) := by
  simp [crcOk, crcBytes]

theorem crc16_append_pair (s : List Byte) (c0 c1 : Byte) :
    crc16 (s ++ [c0, c1]) = crcStep (crcStep (crc16 s) c0) c1 := crcFold_append _ _ _

theorem exists_eq_append_pair {d : List Byte} (h : 2 ≤ d.length) : ∃ s c0 c1, d = s ++ [c0, c1] := by
  have hlast : (d.drop (d.length - 2)).length = 2 := by
    rw [List.length_drop]
    omega
  obtain ⟨c0, c1, hc⟩ := List.length_eq_two.1 hlast
  exact ⟨d.take (d.length - 2), c0, c1, by rw [← hc, List.take_append_drop]⟩

/-- Settles O11: the last two bytes take the register to 0 exactly when they are its own. -/
theorem crcOkIsTheResidueTest : Obligations.CrcOkIsTheResidueTest := by
  unfold Obligations.CrcOkIsTheResidueTest
  refine ⟨fun d hd => ?residue, fun d hd => ?short⟩
  case residue =>
    obtain ⟨s, c0, c1, rfl⟩ := exists_eq_append_pair hd
    exact (crcOk_append s c0 c1).trans (crc16_append_pair s c0 c1 ▸ crcStep_crcStep_eq_zero_iff.symm)
  case short => simp [crcOk, hd]

end Sys2Proof.Machine
end

section
/-! PROOFS. The recurrence on unbounded naturals (40_crc16.md R90), and O9. -/

namespace Sys2Proof.Machine

theorem xor_and_ff_lt (r : Nat) {b : Nat} (hb : b < 2 ^ 8) : b ^^^ (r &&& 0xFF) < 2 ^ 8 :=
  Nat.xor_lt_two_pow hb (Nat.and_lt_two_pow r (by decide))

theorem crcStepNatUnmasked_lt {r b : Nat} (hr : r < 2 ^ 16) (hb : b < 2 ^ 8) : crcStepNatUnmasked r b < 2 ^ 16 := by
  have hx := xor_and_ff_lt ((b ^^^ (r &&& 0xFF)) <<< 4) (xor_and_ff_lt r hb)
  unfold crcStepNatUnmasked
  refine Nat.xor_lt_two_pow (Nat.xor_lt_two_pow (Nat.xor_lt_two_pow ?_ ?_) ?_) ?_
  · rw [Nat.shiftRight_eq_div_pow]; omega
  · rw [Nat.shiftLeft_eq]; omega
  · rw [Nat.shiftLeft_eq]; omega
  · rw [Nat.shiftRight_eq_div_pow]; omega

/-- No shift of the recurrence leaves 16 bits. -/
theorem shiftLeft_mod_of_byte {x k : Nat} (hx : x < 2 ^ 8) (hk : k ≤ 8) : x <<< k % 65536 = x <<< k := by
  apply Nat.mod_eq_of_lt
  calc x <<< k = x * 2 ^ k := Nat.shiftLeft_eq x k
    _ < 2 ^ 8 * 2 ^ k := Nat.mul_lt_mul_of_pos_right hx (Nat.two_pow_pos k)
    _ ≤ 2 ^ 8 * 2 ^ 8 := Nat.mul_le_mul_left _ (Nat.pow_le_pow_right (by decide) hk)

theorem crcStep_toNat (r : Half) (b : Byte) : (crcStep r b).toNat = crcStepNat r.toNat b.toNat := by
  have hx := xor_and_ff_lt r.toNat b.isLt
  have hy := xor_and_ff_lt ((b.toNat ^^^ (r.toNat &&& 0xFF)) <<< 4) hx
  have hb : b.toNat % 65536 = b.toNat := Nat.mod_eq_of_lt (by omega)
  have h4 := shiftLeft_mod_of_byte hx (k := 4) (by decide)
  have h8 := shiftLeft_mod_of_byte hy (k := 8) (by decide)
  have h3 := shiftLeft_mod_of_byte hy (k := 3) (by decide)
  simp [crcStep, crcStepNat, crcStepNatUnmasked, hb, h4, h8, h3]

/-- Settles O9: the four terms of the sum are below 2^16, so neither the mask nor the 16-bit shifts drop a bit. -/
theorem recurrenceNeedsNoMoreThanSixteenBits : Obligations.RecurrenceNeedsNoMoreThanSixteenBits := by
  unfold Obligations.RecurrenceNeedsNoMoreThanSixteenBits
  intro r b
  have hlt := crcStepNatUnmasked_lt r.isLt b.isLt
  have hmask : crcStepNat r.toNat b.toNat = crcStepNatUnmasked r.toNat b.toNat :=
    Nat.and_two_pow_sub_one_of_lt_two_pow hlt
  exact ⟨hlt, hmask, crcStep_toNat r b⟩

end Sys2Proof.Machine
end

section
/-! PROOFS. The operations of the CRC16 Engine one by one (40_crc16.md R93 to R97, R88), and O1 to O5, O13. -/

namespace Sys2Proof.Machine

open Safety

variable {s : State} {i : Instr} {r : Half} {b : Byte}

/-- Settles O1. -/
theorem crcStartSeedsAccumulator : Obligations.CrcStartSeedsAccumulator := by
  unfold Obligations.CrcStartSeedsAccumulator
  exact fun s => exec_crcStart_of_idle

theorem crcUpdateWork_of_fold (hr : s.fcs = some r)
    (hp : s.crcPhase = .accumulating ∨ (s.crcPhase = .finalized ∧ s.cfg.postFinalizeUpdate = .fold)) :
    crcUpdateWork b s = (s.setCrc (crcStep r b) .accumulating).deliver (.result (.register (crcStep r b))) := by
  obtain hp | ⟨hp, hfold⟩ := hp
  · exact crcUpdateWork_of_accumulating hp hr
  · simp [crcUpdateWork, hp, hr, hfold]

/-- Settles O2: in both phases the work is the fold. -/
theorem crcUpdateFoldsOneByte : Obligations.CrcUpdateFoldsOneByte := by
  unfold Obligations.CrcUpdateFoldsOneByte
  intro s b r hx hr hp
  refine (whenIdle_of_idle hx _).trans ?_
  rw [crcUpdateWork_of_fold hr hp]
  rfl

theorem crcUpdateWork_of_unseeded (hp : s.crcPhase = .unseeded) :
    crcUpdateWork b s = s.deliver (.usageFault .crcNotSeeded) := by
  simp [crcUpdateWork, hp]

theorem crcUpdateWork_of_finalized (hp : s.crcPhase = .finalized) (hf : s.cfg.postFinalizeUpdate = .fault) :
    crcUpdateWork b s = s.deliver (.usageFault .updateAfterFinalize) := by
  simp [crcUpdateWork, hp, hf]

theorem crcFinalizeWork_of_unseeded (hp : s.crcPhase = .unseeded) :
    crcFinalizeWork s = s.deliver (.usageFault .crcNotSeeded) := by
  simp [crcFinalizeWork, hp]

/-- Settles O3: in each case the work is the fault alone. -/
theorem usageFaultsAreRaisedAndChangeNothing : Obligations.UsageFaultsAreRaisedAndChangeNothing := by
  unfold Obligations.UsageFaultsAreRaisedAndChangeNothing
  refine ⟨fun s b hx hp => ?update, fun s hx hp => ?finalize, fun s b hx hp hf => ?updateAfterFinalize⟩
  case update => exact (whenIdle_of_idle hx _).trans (congrArg _ (crcUpdateWork_of_unseeded hp))
  case finalize => exact (whenIdle_of_idle hx _).trans (congrArg _ (crcFinalizeWork_of_unseeded hp))
  case updateAfterFinalize => exact (whenIdle_of_idle hx _).trans (congrArg _ (crcUpdateWork_of_finalized hp hf))

/-- Settles O4: the pair is `lo` and `hi` of the register. -/
theorem crcFinalizeReturnsLowThenHigh : Obligations.CrcFinalizeReturnsLowThenHigh := by
  unfold Obligations.CrcFinalizeReturnsLowThenHigh
  exact fun s r hx hr hp => ⟨lo r, hi r, lo_toNat r, hi_toNat r, exec_crcFinalize_of_seeded hx hr hp⟩

/-- Settles O5: the register is `crc16` of the buffer. -/
theorem crcComputeFoldsFromTheSeed : Obligations.CrcComputeFoldsFromTheSeed := by
  unfold Obligations.CrcComputeFoldsFromTheSeed
  exact fun s buf hx =>
    ⟨crc16 buf, rfl, lo (crc16 buf), hi (crc16 buf), lo_toNat _, hi_toNat _, exec_crcCompute_of_idle hx⟩

/-- An operation of the CRC16 Engine starts no exchange, and is neither a reserved row nor a captured frame. -/
theorem not_other_of_isCrcOp (cfg : Params) (hi : isCrcOp i = true) :
    exchangeOf cfg i = none ∧ isReserved i = false ∧ isFrame i = false := by
  cases i with
  | crcStart => exact ⟨rfl, rfl, rfl⟩
  | crcUpdate b => exact ⟨rfl, rfl, rfl⟩
  | crcFinalize => exact ⟨rfl, rfl, rfl⟩
  | crcCompute buf => exact ⟨rfl, rfl, rfl⟩
  | _ => cases hi

/-- Settles O13: each effect a CRC operation can have delivers one outcome and writes the accumulator at most. -/
theorem crcOperationsAreAtomicAndLocal : Obligations.CrcOperationsAreAtomicAndLocal := by
  unfold Obligations.CrcOperationsAreAtomicAndLocal
  intro i s hi
  obtain ⟨hexchange, hreserved, hframe⟩ := not_other_of_isCrcOp s.cfg hi
  obtain ⟨t, ht, e⟩ := exec_effect i s
  cases e with
  | busy h => exact ⟨_, _, ht, rfl, rfl, rfl, rfl, rfl, rfl, rfl, fun _ => ⟨rfl, rfl, rfl⟩⟩
  | crc v p r hc h hp => exact ⟨_, _, ht, rfl, rfl, rfl, rfl, rfl, rfl, rfl, fun hs => absurd h hs⟩
  | finalized v r hc h hv => exact ⟨_, _, ht, rfl, rfl, rfl, rfl, rfl, rfl, rfl, fun hs => absurd h hs⟩
  | usage k hc h => exact ⟨_, _, ht, rfl, rfl, rfl, rfl, rfl, rfl, rfl, fun hs => absurd h hs⟩
  | exchange l f h hx => simp [hexchange] at hx
  | reserved w hr h => simp [hreserved] at hr
  | observed b hf => simp [hframe] at hf

end Sys2Proof.Machine
end

section
/-! PROOFS. Sequences of CRC operations (40_crc16.md R99, R101, 70_reset_and_hazards.md R156, R157), and O6, O12, O40.
-/

namespace Sys2Proof.Machine

open Safety

variable {s t : State} {i : Instr} {r : Half}

/-! ### The reports of the updates over a buffer -/

/-- The registers the updates over a buffer return, from the register `r` on. -/
def updateReports (r : Half) : List Byte → List Report
  | [] => []
  | b :: bs => .result (.register (crcStep r b)) :: updateReports (crcStep r b) bs

@[simp] theorem updateReports_length (r : Half) (buf : List Byte) : (updateReports r buf).length = buf.length := by
  induction buf generalizing r with
  | nil => rfl
  | cons b bs ih => simp [updateReports, ih]

theorem updateReports_getElem? (r : Half) {buf : List Byte} {k : Nat} (hk : k < buf.length) :
    (updateReports r buf)[k]? = some (.result (.register (crcFold r (buf.take (k + 1))))) := by
  induction buf generalizing r k with
  | nil => simp at hk
  | cons b bs ih =>
    cases k with
    | zero => rfl
    | succ k =>
      rw [updateReports, List.getElem?_cons_succ, List.take_succ_cons, crcFold_cons]
      exact ih _ (by simpa using hk)

theorem isRegister_of_mem_updateReports {buf : List Byte} {q : Report} (h : q ∈ updateReports r buf) :
    ∃ v, q = .result (.register v) := by
  induction buf generalizing r with
  | nil => simp [updateReports] at h
  | cons b bs ih =>
    obtain rfl | h := List.mem_cons.1 h
    · exact ⟨_, rfl⟩
    · exact ih h

/-- The updates over a buffer fold it into the register and return one register for each byte. -/
theorem execAll_crcUpdates_reports (buf : List Byte) (is : List Instr) (hx : s.xphase = .idle)
    (hp : s.crcPhase = .accumulating) (hr : s.fcs = some r) :
    ∃ t, execAll (buf.map Instr.crcUpdate ++ is) s = execAll is t ∧
      t.xphase = .idle ∧ t.crcPhase = .accumulating ∧ t.fcs = some (crcFold r buf) ∧
      t.reports = s.reports ++ updateReports r buf := by
  induction buf generalizing s r with
  | nil => exact ⟨s, rfl, hx, hp, hr, by simp [updateReports]⟩
  | cons b bs ih =>
    rw [List.map_cons, List.cons_append, execAll_cons_of_next (exec_crcUpdate_of_accumulating hx hp hr)]
    obtain ⟨t, hrun, htx, htp, htr, hrep⟩ := ih (r := crcStep r b)
      (s := (s.setCrc (crcStep r b) .accumulating).deliver (.result (.register (crcStep r b)))) hx rfl rfl
    exact ⟨t, hrun, htx, htp, htr, by simp [hrep, updateReports]⟩

/-- Settles O12: the fold over a concatenation is the fold over its parts. -/
theorem unseededSecondSequenceIsConcatenated : Obligations.UnseededSecondSequenceIsConcatenated := by
  unfold Obligations.UnseededSecondSequenceIsConcatenated
  intro s p q hx hp hr
  obtain ⟨t, hrun, -, htp, htr, hrep⟩ := execAll_crcUpdates_reports q [] hx hp hr
  rw [List.append_nil] at hrun
  refine ⟨t, hrun, ?_, htp, fun m hm => ?_⟩
  · rw [htr, crc16, crc16, crcFold_append]
  · rw [hrep, List.drop_left] at hm
    exact isRegister_of_mem_updateReports hm

/-- Settles O6: the updates of the expansion fold the buffer and return one register for each byte. -/
theorem crcComputeEqualsItsExpansion : Obligations.CrcComputeEqualsItsExpansion := by
  unfold Obligations.CrcComputeEqualsItsExpansion
  intro s buf hx
  obtain ⟨t, hrun, htx, htp, htr, hrep⟩ := execAll_crcUpdates_reports (r := Config.crcSeed) buf [.crcFinalize]
    (s := (s.setCrc Config.crcSeed .accumulating).deliver (.result .unit)) hx rfl rfl
  have hseeded : t.crcPhase ≠ .unseeded := by simp [htp]
  refine ⟨_, (t.setCrcPhase .finalized).deliver (.result (.pair (lo (crc16 buf)) (hi (crc16 buf)))), _,
    updateReports Config.crcSeed buf, exec_crcCompute_of_idle hx, ?run, htr.symm, rfl, rfl, ?reports,
    updateReports_length _ _, fun k => updateReports_getElem? _⟩
  case run =>
    rw [computeExpansion, execAll_cons_of_next (exec_crcStart_of_idle hx), hrun,
      execAll_cons_of_next (exec_crcFinalize_of_seeded htx htr hseeded)]
    rfl
  case reports => simp [hrep]

/-! ### A caller that seeds -/

/-- An idle block whose phase tells whether the accumulator has a value (R22, R23). -/
structure IdleSeeded (s : State) : Prop where
  idle : s.xphase = .idle
  seeded : s.fcs = none ↔ s.crcPhase = .unseeded

theorem IdleSeeded.exists_fcs (h : IdleSeeded s) (hp : s.crcPhase ≠ .unseeded) : ∃ r, s.fcs = some r :=
  Option.ne_none_iff_exists'.1 (mt h.seeded.1 hp)

/-- One CRC operation of a caller that keeps R156 and R157: it returns a result, and the rest of the program keeps them
from the phase it leaves. -/
theorem exec_of_seedsBeforeFolding {is : List Instr} (h : IdleSeeded s) (hi : isCrcOp i = true)
    (hduty : seedsBeforeFolding s.crcPhase (i :: is) = true) :
    ∃ t v, exec i s = .next t ∧ t.reports = s.reports ++ [.result v] ∧ IdleSeeded t ∧
      seedsBeforeFolding t.crcPhase is = true := by
  cases i with
  | crcStart => exact ⟨_, _, exec_crcStart_of_idle h.idle, rfl, ⟨h.idle, by simp⟩, hduty⟩
  | crcCompute buf => exact ⟨_, _, exec_crcCompute_of_idle h.idle, rfl, ⟨h.idle, by simp⟩, hduty⟩
  | crcUpdate b =>
    obtain ⟨hp, hrest⟩ : s.crcPhase = .accumulating ∧ seedsBeforeFolding .accumulating is = true := by
      simpa [seedsBeforeFolding] using hduty
    obtain ⟨r, hr⟩ := h.exists_fcs (by simp [hp])
    exact ⟨_, _, exec_crcUpdate_of_accumulating h.idle hp hr, rfl, ⟨h.idle, by simp⟩, hrest⟩
  | crcFinalize =>
    obtain ⟨hp, hrest⟩ : s.crcPhase ≠ .unseeded ∧ seedsBeforeFolding .finalized is = true := by
      simpa [seedsBeforeFolding] using hduty
    obtain ⟨r, hr⟩ := h.exists_fcs hp
    exact ⟨_, _, exec_crcFinalize_of_seeded h.idle hr hp, rfl, ⟨h.idle, by simp [hr]⟩, hrest⟩
  | _ => cases hi

theorem execAll_of_seedsBeforeFolding (program : List Instr) (h : IdleSeeded s)
    (hcrc : ∀ i ∈ program, isCrcOp i = true) (hduty : seedsBeforeFolding s.crcPhase program = true) :
    ∃ (t : State) (values : List Value), execAll program s = .next t ∧
      t.reports = s.reports ++ values.map Report.result := by
  induction program generalizing s with
  | nil => exact ⟨s, [], rfl, by simp⟩
  | cons i is ih =>
    obtain ⟨hi, his⟩ := List.forall_mem_cons.1 hcrc
    obtain ⟨t, v, hexec, hrep, ht, hrest⟩ := exec_of_seedsBeforeFolding h hi hduty
    obtain ⟨u, values, hrun, hu⟩ := ih ht his hrest
    exact ⟨u, v :: values, (execAll_cons_of_next hexec).trans hrun, by simp [hu, hrep]⟩

/-- Settles O40: under the duties every operation returns a result and leaves a block that its next operation may use.
-/
theorem aSeedingCallerGetsNoUsageFault : Obligations.ASeedingCallerGetsNoUsageFault := by
  unfold Obligations.ASeedingCallerGetsNoUsageFault
  intro program s hx hseeded hcrc hduty
  obtain ⟨t, values, hrun, hrep⟩ := execAll_of_seedsBeforeFolding program ⟨hx, hseeded⟩ hcrc hduty
  refine ⟨t, hrun, fun q hq => ?_⟩
  rw [hrep, List.drop_left] at hq
  obtain ⟨v, -, rfl⟩ := List.mem_map.1 hq
  exact ⟨v, rfl⟩

end Sys2Proof.Machine
end

section
/-! PROOFS. The exchange each protocol operation starts (42_exchange.md R123 to R127, R130, R131), and O16 to O20,
O39. -/

namespace Sys2Proof.Machine

open Safety

variable {s : State}

/-- Settles O16: the exchange is that of `exchangeOf`. -/
theorem killRfSelectI2cStartsItsExchange : Obligations.KillRfSelectI2cStartsItsExchange := by
  unfold Obligations.KillRfSelectI2cStartsItsExchange
  exact fun s hs => exec_of_exchangeOf hs rfl

/-- Settles O17: the exchange is that of `exchangeOf`, and its frame closes `bodySelectApp`. -/
theorem selectNfcT4AppStartsItsExchange : Obligations.SelectNfcT4AppStartsItsExchange := by
  unfold Obligations.SelectNfcT4AppStartsItsExchange
  exact fun s pcb chk hs => ⟨bodySelectApp pcb, rfl, exec_of_exchangeOf hs rfl⟩

/-- The bytes of a 16-bit value (20_memory.md R50). -/
theorem hi_lo_of_toNat {v : Half} {h l : Byte} (hv : v.toNat = h.toNat * 256 + l.toNat) : hi v = h ∧ lo v = l := by
  have hh := hi_toNat v
  have hl := lo_toNat v
  exact ⟨BitVec.eq_of_toNat_eq (by omega), BitVec.eq_of_toNat_eq (by omega)⟩

/-- Settles O18: the bytes of the identifier are its `hi` and `lo`. -/
theorem selectFileStartsItsExchange : Obligations.SelectFileStartsItsExchange := by
  unfold Obligations.SelectFileStartsItsExchange
  intro s fileId h l pcb chk hs hv
  obtain ⟨rfl, rfl⟩ := hi_lo_of_toNat hv
  exact ⟨bodySelectFile fileId pcb, rfl, exec_of_exchangeOf hs rfl⟩

/-- Settles O19: the bytes of the offset are its `hi` and `lo`. -/
theorem readBinaryStartsItsExchange : Obligations.ReadBinaryStartsItsExchange := by
  unfold Obligations.ReadBinaryStartsItsExchange
  intro s offset h l length pcb chk hs hv
  obtain ⟨rfl, rfl⟩ := hi_lo_of_toNat hv
  exact ⟨bodyReadBinary offset length pcb, rfl, exec_of_exchangeOf hs rfl⟩

theorem frameDeselect_eq : frameDeselect = [0xC2, 0xE0, 0xB4] := by decide

theorem deselectReadLength_of_none {cfg : Params} (h : cfg.deselectRead = .none) : deselectReadLength cfg = none := by
  simp [deselectReadLength, h]

theorem deselectReadLength_of_zeroLength {cfg : Params} (h : cfg.deselectRead = .zeroLength) :
    deselectReadLength cfg = some 0 := by
  simp [deselectReadLength, h]

theorem exec_deselect_of_idle (hs : s.xphase = .idle) :
    exec .deselect s = .next (s.beginExchange ⟨.deselect, deselectReadLength s.cfg, false⟩ [0xC2, 0xE0, 0xB4]) := by
  rw [← frameDeselect_eq]
  exact exec_of_exchangeOf hs rfl

/-- Settles O20: the closed frame is a constant, and the read length is that of the parameter. -/
theorem deselectStartsItsExchange : Obligations.DeselectStartsItsExchange := by
  unfold Obligations.DeselectStartsItsExchange
  refine fun s hs => ⟨fun hd => ?none, fun hd => ?zeroLength⟩
  case none =>
    rw [exec_deselect_of_idle hs, deselectReadLength_of_none hd]
    rfl
  case zeroLength =>
    rw [exec_deselect_of_idle hs, deselectReadLength_of_zeroLength hd]
    rfl

/-- Settles O39: the history and the state it leaves play no part: an idle block sends the frame of `exchangeOf`. -/
theorem operationsAreAcceptedInEveryOrder : Obligations.OperationsAreAcceptedInEveryOrder := by
  unfold Obligations.OperationsAreAcceptedInEveryOrder
  intro history start s i _ hs hi
  obtain ⟨l, f, hx⟩ := exists_exchangeOf_of_isProtocolOp s.cfg hi
  refine ⟨s.beginExchange l f, f, exec_of_exchangeOf hs hx, rfl, rfl, ?kill, ?app, ?file, ?read, ?deselect⟩
  case kill =>
    rintro rfl
    cases hx
    rfl
  case app =>
    rintro pcb chk rfl
    cases hx
    exact ⟨rfl, rfl⟩
  case file =>
    rintro fileId pcb chk rfl
    cases hx
    exact ⟨rfl, rfl⟩
  case read =>
    rintro offset length pcb chk rfl
    cases hx
    exact ⟨rfl, rfl⟩
  case deselect =>
    rintro rfl
    cases hx
    rfl

end Sys2Proof.Machine
end

section
/-! PROOFS. The answer to the write (42_exchange.md R113, 60_exceptions.md R134) and what then has reached the tag
(20_memory.md R54), and O26, O33. -/

namespace Sys2Proof.Machine

open Safety

variable {s : State} {l : Latch} {rest : List Input}

theorem step_wrote_of_status_ne_zero {st : Int} {reached : Nat} (hp : s.xphase = .waitWrite) (hl : s.xlatch = some l)
    (hin : s.inputs = .wrote st reached :: rest) (hst : st ≠ 0) :
    step s = .next (((s.withInputs rest).record (.wrote st reached)).endExchange.deliver (.transportError .write st)) :=
  (step_cons hin).trans (onWrote_of_status_ne_zero (s := s.withInputs rest) hp hl hst)

theorem step_wrote_of_no_read {reached : Nat} (hp : s.xphase = .waitWrite) (hl : s.xlatch = some l)
    (hin : s.inputs = .wrote 0 reached :: rest) (hn : l.n = none) :
    step s = .next (((s.withInputs rest).record (.wrote 0 reached)).endExchange.deliver (.result (.bytes []))) :=
  (step_cons hin).trans (onWrote_zero_of_no_read (s := s.withInputs rest) hp hl hn)

theorem step_wrote_of_read {reached n : Nat} (hp : s.xphase = .waitWrite) (hl : s.xlatch = some l)
    (hin : s.inputs = .wrote 0 reached :: rest) (hn : l.n = some n) :
    step s = .next (((s.withInputs rest).record (.wrote 0 reached)).beginRead n) :=
  (step_cons hin).trans (onWrote_zero_of_read (s := s.withInputs rest) hp hl hn)

/-- Settles O26: the three cases of `onWrote`. -/
theorem writeAnswerEndsOrStartsTheRead : Obligations.WriteAnswerEndsOrStartsTheRead := by
  unfold Obligations.WriteAnswerEndsOrStartsTheRead
  intro s l st reached rest hp hl hin
  refine ⟨fun hst => step_wrote_of_status_ne_zero hp hl hin hst, fun hst hn => ?noRead, fun n hst hn => ?read⟩
  case noRead =>
    subst hst
    exact step_wrote_of_no_read hp hl hin hn
  case read =>
    subst hst
    rw [step_wrote_of_read hp hl hin hn]
    simp [State.beginRead, State.record, State.withInputs]

/-! ### What a write delivers to the tag -/

/-- An answered write leaves one entry, whatever came before it. -/
theorem tagReceived_append_write (log : List TransportEvent) (addr : Byte) (f : List Byte) (st : Int) (reached : Nat)
    (es : List TransportEvent) :
    tagReceived (log ++ .write addr f :: .wrote st reached :: es) =
      tagReceived log ++ (if st = 0 then f else f.take reached) :: tagReceived es := by
  induction log with
  | nil => rfl
  | cons e log ih =>
    cases e with
    | write a g =>
      cases log with
      | nil => rfl
      | cons e' log =>
        cases e' with
        | wrote st' k => exact congrArg (_ :: ·) ih
        | _ => exact ih
    | _ => exact ih

/-- Settles O33: the answer's number cuts the frame, and every first part of a frame is cut by its own length. -/
theorem aFailedWriteMayReachTheTagInPart : Obligations.AFailedWriteMayReachTheTagInPart := by
  unfold Obligations.AFailedWriteMayReachTheTagInPart
  intro s l log addr f rest hp hl hlog
  have hreceived : ∀ st reached es, tagReceived (s.transport ++ .wrote st reached :: es) =
      tagReceived log ++ (if st = 0 then f else f.take reached) :: tagReceived es := by
    intro st reached es
    rw [hlog, List.append_assoc]
    exact tagReceived_append_write log addr f st reached es
  have hfailed : ∀ st reached, st ≠ 0 → ∃ t : State, step (s.withInputs (.wrote st reached :: rest)) = .next t ∧
      tagReceived t.transport = tagReceived log ++ [f.take reached] ∧
      t.reports = s.reports ++ [.transportError .write st] := by
    intro st reached hst
    refine ⟨_, step_wrote_of_status_ne_zero (s := s.withInputs _) hp hl rfl hst, ?_, rfl⟩
    exact (hreceived st reached []).trans (by rw [if_neg hst]; rfl)
  refine ⟨fun st p hst hprefix => ?somePrefix, fun st reached hst => ?onlyPrefixes, fun reached => ?whole⟩
  case somePrefix =>
    obtain ⟨t, hstep, htag, hrep⟩ := hfailed st p.length hst
    rw [← List.prefix_iff_eq_take.1 hprefix] at htag
    exact ⟨p.length, t, hstep, htag, hrep⟩
  case onlyPrefixes =>
    obtain ⟨t, hstep, htag, hrep⟩ := hfailed st reached hst
    exact ⟨t, f.take reached, hstep, List.take_prefix reached f, htag, hrep⟩
  case whole =>
    cases hn : l.n with
    | none => exact ⟨_, step_wrote_of_no_read (s := s.withInputs _) hp hl rfl hn, hreceived 0 reached []⟩
    | some n =>
      have hread := hreceived 0 reached [.read s.cfg.tagAddr n]
      exact ⟨_, step_wrote_of_read (s := s.withInputs _) hp hl rfl hn, by simpa [tagReceived] using hread⟩

end Sys2Proof.Machine
end

section
/-! PROOFS. The checks on the answer to the read, in their order (42_exchange.md R113, R117, R118), and O27, O29, O30.
-/

namespace Sys2Proof.Machine

open Safety

variable {s t : State} {i : Instr} {p : Packet}

theorem responseReport_of_status_ne_zero {st : Int} (cfg : Params) (n : Nat) (chk : Bool) (data : List Byte)
    (hst : st ≠ 0) : responseReport cfg n chk st data = .transportError .read st := if_pos hst

theorem responseReport_of_short {n : Nat} {data : List Byte} (cfg : Params) (chk : Bool) (h : data.length < n) :
    responseReport cfg n chk 0 data = .protocolError .shortResponse data := by
  simp [responseReport, h]

theorem responseReport_of_long_fault {cfg : Params} {n : Nat} {data : List Byte} (chk : Bool) (h : n < data.length)
    (hcfg : cfg.longResponse = .fault) : responseReport cfg n chk 0 data = .protocolError .longResponse data := by
  simp [responseReport, h, hcfg, Nat.not_lt_of_lt h]

theorem responseReport_of_long_prefix {cfg : Params} {n : Nat} {data : List Byte} (chk : Bool) (h : n < data.length)
    (hcfg : cfg.longResponse = .acceptPrefix) :
    responseReport cfg n chk 0 data = checkedResponse cfg chk (data.take n) := by
  simp [responseReport, h, hcfg, Nat.not_lt_of_lt h]

theorem checkedResponse_of_unimplemented {cfg : Params} {data : List Byte} (h : cfg.checkCrcMode = .unimplemented) :
    checkedResponse cfg true data = .protocolError .crcCheckUnimplemented data := by
  simp [checkedResponse, h]

theorem checkedResponse_of_mismatch {cfg : Params} {data : List Byte} (h : cfg.checkCrcMode = .verify)
    (hcrc : crcOk data = false) : checkedResponse cfg true data = .protocolError .crcMismatch data := by
  simp [checkedResponse, h, hcrc]

/-- Settles O27: one lemma on `responseReport` or `checkedResponse` for each check. -/
theorem readAnswerIsCheckedInOrder : Obligations.ReadAnswerIsCheckedInOrder := by
  unfold Obligations.ReadAnswerIsCheckedInOrder
  intro s op n chk st data rest hp hl hin
  refine ⟨responseReport s.cfg n chk st data, step_got_of_read hp hl rfl hin,
    responseReport_of_status_ne_zero s.cfg n chk data, ?short, ?long, fun kept hst hkept => ?crc⟩
  case short =>
    rintro rfl hshort
    exact responseReport_of_short s.cfg chk hshort
  case long =>
    rintro rfl hlong hcfg
    exact responseReport_of_long_fault chk hlong hcfg
  case crc =>
    subst hst
    have hr : responseReport s.cfg n chk 0 data = checkedResponse s.cfg chk kept := by
      obtain ⟨rfl, rfl⟩ | ⟨hlong, hcfg, rfl⟩ := hkept
      · exact responseReport_of_length_eq s.cfg chk kept
      · exact responseReport_of_long_prefix chk hlong hcfg
    rw [hr]
    refine ⟨?unchecked, ?unimplemented, ?mismatch, ?passed⟩
    case unchecked =>
      rintro rfl
      rfl
    case unimplemented =>
      rintro rfl hmode
      exact checkedResponse_of_unimplemented hmode
    case mismatch =>
      rintro rfl hmode hcrc
      exact checkedResponse_of_mismatch hmode hcrc
    case passed =>
      rintro rfl hmode hcrc
      exact checkedResponse_of_passed fun _ => ⟨hmode, hcrc⟩

theorem checkedResponse_cases (cfg : Params) (chk : Bool) (data : List Byte) :
    checkedResponse cfg chk data = .result (.bytes data) ∨
    checkedResponse cfg chk data = .protocolError .crcCheckUnimplemented data ∨
    checkedResponse cfg chk data = .protocolError .crcMismatch data := by
  cases chk with
  | false => exact .inl rfl
  | true =>
    cases hmode : cfg.checkCrcMode with
    | unimplemented => exact .inr (.inl (checkedResponse_of_unimplemented hmode))
    | verify =>
      cases hcrc : crcOk data with
      | false => exact .inr (.inr (checkedResponse_of_mismatch hmode hcrc))
      | true => exact .inl (checkedResponse_of_passed fun _ => ⟨hmode, hcrc⟩)

theorem value_of_checkedResponse {cfg : Params} {chk : Bool} {data : List Byte} {v : Value}
    (h : checkedResponse cfg chk data = .result v) : v = .bytes data := by
  obtain hr | hr | hr := checkedResponse_cases cfg chk data
  all_goals cases hr.symm.trans h
  rfl

/-- A result is the front of an answer that has the bytes asked for. -/
theorem value_of_responseReport {cfg : Params} {n : Nat} {chk : Bool} {st : Int} {data : List Byte} {v : Value}
    (h : responseReport cfg n chk st data = .result v) : st = 0 ∧ n ≤ data.length ∧ v = .bytes (data.take n) := by
  by_cases hst : st = 0
  · subst hst
    obtain hlt | rfl | hgt := Nat.lt_trichotomy data.length n
    · rw [responseReport_of_short cfg chk hlt] at h
      cases h
    · rw [responseReport_of_length_eq] at h
      exact ⟨rfl, Nat.le_refl _, by rw [List.take_length, value_of_checkedResponse h]⟩
    · cases hcfg : cfg.longResponse with
      | fault =>
        rw [responseReport_of_long_fault chk hgt hcfg] at h
        cases h
      | acceptPrefix =>
        rw [responseReport_of_long_prefix chk hgt hcfg] at h
        exact ⟨rfl, Nat.le_of_lt hgt, value_of_checkedResponse h⟩
  · rw [responseReport_of_status_ne_zero cfg n chk data hst] at h
    cases h

/-- Settles O29: only an answer with status 0 and enough bytes leads to a result, which is its front. -/
theorem aReturnedResponseHasTheLengthAskedFor : Obligations.AReturnedResponseHasTheLengthAskedFor := by
  unfold Obligations.AReturnedResponseHasTheLengthAskedFor
  intro s t st data rest l n v hin hl hn h hrep
  rw [step_cons hin] at h
  obtain ⟨m, k, -, hm, hk, rfl⟩ := onGot_cases h
  obtain rfl : l = m := Option.some.inj (hl.symm.trans hm)
  obtain rfl : n = k := Option.some.inj (hn.symm.trans hk)
  have hr : responseReport s.cfg n l.chk st data = .result v := by simpa using hrep
  obtain ⟨hst, hlen, hv⟩ := value_of_responseReport hr
  exact ⟨hst, data.take n, hv, List.length_take_of_le hlen, rfl⟩

/-- A packet delivers no ProtocolError. -/
theorem ExecEffect.not_protocolError {kind : ProtocolErrorKind} {data : List Byte} (e : ExecEffect i s t) :
    t.reports ≠ s.reports ++ [.protocolError kind data] := by
  cases e <;> simp

theorem PacketEffect.not_protocolError {kind : ProtocolErrorKind} {data : List Byte} (e : PacketEffect p s t) :
    t.reports ≠ s.reports ++ [.protocolError kind data] := by
  cases e with
  | ran i hd e => exact e.not_protocolError
  | _ => simp

/-- A response of the length asked for raises no length error. -/
theorem kind_of_responseReport {cfg : Params} {n : Nat} {chk : Bool} {st : Int} {data data' : List Byte}
    {kind : ProtocolErrorKind} (hlen : st = 0 → data.length = n)
    (h : responseReport cfg n chk st data = .protocolError kind data') :
    kind = .crcCheckUnimplemented ∨ kind = .crcMismatch := by
  by_cases hst : st = 0
  · obtain rfl := hlen hst
    subst hst
    rw [responseReport_of_length_eq] at h
    obtain hr | hr | hr := checkedResponse_cases cfg chk data
    · cases hr.symm.trans h
    · cases hr.symm.trans h
      exact .inl rfl
    · cases hr.symm.trans h
      exact .inr rfl
  · rw [responseReport_of_status_ne_zero cfg n chk data hst] at h
    cases h

/-- Settles O30: only an answer to a read raises a ProtocolError, and the premise leaves the CRC check alone to raise
it. -/
theorem aConformingTransportRaisesNoLengthError : Obligations.AConformingTransportRaisesNoLengthError := by
  unfold Obligations.AConformingTransportRaisesNoLengthError
  intro s t kind data hconforms h hrep
  cases step_cases h with
  | stays hin => simp at hrep
  | packet p rest hin e => exact absurd hrep e.not_protocolError
  | wrote st reached rest hin e =>
    obtain ⟨l, -, -, ⟨-, rfl⟩ | ⟨-, -, rfl⟩ | ⟨n, -, -, rfl⟩⟩ := onWrote_cases e
    all_goals simp at hrep
  | got st d rest hin e =>
    obtain ⟨l, n, hp, hl, hn, rfl⟩ := onGot_cases e
    have hr : responseReport s.cfg n l.chk st d = .protocolError kind data := by simpa using hrep
    refine kind_of_responseReport (fun hst => ?_) hr
    subst hst
    exact hconforms d rest l n hin hp hl hn
  | reset rest hin hs => simp at hrep

end Sys2Proof.Machine
end

section
/-! PROOFS. A whole successful exchange (42_exchange.md R113, R128), and O32. -/

namespace Sys2Proof.Machine

variable {s : State} {i : Instr} {l : Latch} {f : List Byte} {rest : List Input}

theorem core_run_one {t : State} (h : step s = .next t) : Host.Core.run Sys2Proof.core 1 s = .next t := core_run_succ h

/-- The command word's step: the frame is handed over. -/
theorem step_of_encode (hs : s.xphase = .idle) (hin : s.inputs = .packet (encode i) :: rest)
    (hx : exchangeOf s.cfg i = some (l, f)) : step s = .next ((s.withInputs rest).beginExchange l f) :=
  (step_of_decode_ok hin (decodeOfEncode i)).trans (exec_of_exchangeOf (s := s.withInputs rest) hs hx)

/-- A write and a read that succeed (R113, R128). -/
theorem run_exchange_with_read {data : List Byte} {reached : Nat} (hs : s.xphase = .idle)
    (hin : s.inputs = .packet (encode i) :: .wrote 0 reached :: .got 0 data :: rest)
    (hx : exchangeOf s.cfg i = some (l, f)) (hn : l.n = some data.length)
    (hcrc : l.chk = true → s.cfg.checkCrcMode = .verify ∧ crcOk data = true) :
    ∃ (f : List Byte) (t : State), exec i s = .next t ∧
      t.transport = s.transport ++ [TransportEvent.write s.cfg.tagAddr f] ∧
      Host.Core.run Sys2Proof.core 3 s = .next
      { s with inputs := rest, xphase := .idle, xlatch := none,
               transport := s.transport ++ [TransportEvent.write s.cfg.tagAddr f, TransportEvent.wrote 0 reached,
                                            TransportEvent.read s.cfg.tagAddr data.length, TransportEvent.got 0 data],
               reports := s.reports ++ [.result (.bytes data)] } := by
  refine ⟨f, _, exec_of_exchangeOf hs hx, rfl, ?_⟩
  rw [core_run_succ (step_of_encode hs hin hx), core_run_succ (step_wrote_of_read rfl rfl rfl hn),
    core_run_one (step_got_of_read rfl rfl hn rfl)]
  have hreport : responseReport s.cfg data.length l.chk 0 data = .result (.bytes data) :=
    (responseReport_of_length_eq s.cfg l.chk data).trans (checkedResponse_of_passed hcrc)
  simp [hreport, State.deliver, State.endExchange, State.record, State.beginRead, State.beginExchange,
    State.withInputs]

/-- A write that succeeds, with nothing to read (R113, R128). -/
theorem run_exchange_without_read {reached : Nat} (hs : s.xphase = .idle)
    (hin : s.inputs = .packet (encode i) :: .wrote 0 reached :: rest)
    (hx : exchangeOf s.cfg i = some (l, f)) (hn : l.n = none) :
    ∃ (f : List Byte) (t : State), exec i s = .next t ∧
      t.transport = s.transport ++ [TransportEvent.write s.cfg.tagAddr f] ∧
      Host.Core.run Sys2Proof.core 2 s = .next
      { s with inputs := rest, xphase := .idle, xlatch := none,
               transport := s.transport ++ [TransportEvent.write s.cfg.tagAddr f, TransportEvent.wrote 0 reached],
               reports := s.reports ++ [.result (.bytes [])] } := by
  refine ⟨f, _, exec_of_exchangeOf hs hx, rfl, ?_⟩
  rw [core_run_succ (step_of_encode hs hin hx), core_run_one (step_wrote_of_no_read rfl rfl rfl hn)]
  simp [State.deliver, State.endExchange, State.record, State.beginExchange, State.withInputs]

/-- Settles O32: the steps of the command word, of the write and of the read, one after another. -/
theorem aSuccessfulExchangeReturnsTheResponse : Obligations.ASuccessfulExchangeReturnsTheResponse := by
  unfold Obligations.ASuccessfulExchangeReturnsTheResponse
  refine ⟨fun s i chk data reached rest hs hin hcrc hop => ?withRead, fun s i reached rest hs hin hop => ?withoutRead⟩
  case withRead =>
    obtain ⟨pcb, rfl, hlen⟩ | ⟨fileId, pcb, rfl, hlen⟩ | ⟨offset, length, pcb, rfl, hlen⟩ | ⟨rfl, hd, hlen⟩ := hop
    · exact run_exchange_with_read hs hin rfl (congrArg some hlen.symm) hcrc
    · exact run_exchange_with_read hs hin rfl (congrArg some hlen.symm) hcrc
    · exact run_exchange_with_read hs hin rfl (congrArg some hlen.symm) hcrc
    · have hn : deselectReadLength s.cfg = some data.length := by rw [deselectReadLength_of_zeroLength hd, hlen]
      exact run_exchange_with_read hs hin rfl hn nofun
  case withoutRead =>
    obtain rfl | ⟨rfl, hd⟩ := hop
    · exact run_exchange_without_read hs hin rfl rfl
    · exact run_exchange_without_read hs hin rfl (deselectReadLength_of_none hd)

end Sys2Proof.Machine
end

section
/-! PROOFS. The cause codes (60_exceptions.md R139) and the views of a response (30_encoding.md R84, 42_exchange.md
R121), and O38, O51. -/

namespace Sys2Proof.Machine

/-- Settles O38: the constructors of an outcome and their codes, one by one. -/
theorem causeCodesOfOutcomes : Obligations.CauseCodesOfOutcomes := by
  unfold Obligations.CauseCodesOfOutcomes
  refine ⟨?_, ?_, ?_, ?_, ?_, ?_, ?_, ?_, ?_, ?_, ?_, ?_, ?_, ?_⟩
  all_goals
    rintro (v | ⟨_ | _, st⟩ | ⟨_ | _ | _ | _, data⟩ | ⟨_ | _⟩ | ⟨_ | _ | _ | _ | _⟩)
    all_goals simp [causeCode, refusalCode]

/-- The last four bytes, one by one. -/
theorem slice_last_four {r : List Byte} (hr : 4 ≤ r.length) :
    slice r (r.length - 4) r.length =
      [byteAt r (r.length - 4), byteAt r (r.length - 3), byteAt r (r.length - 2), byteAt r (r.length - 1)] := by
  obtain ⟨k, hk⟩ := Nat.exists_eq_add_of_le' hr
  simp [hk, slice_eq_byteAt_cons]

/-- Settles O51: the views are consecutive slices of the response. -/
theorem responseViewsPartitionTheResponse : Obligations.ResponseViewsPartitionTheResponse := by
  unfold Obligations.ResponseViewsPartitionTheResponse
  refine fun r hr => ⟨?partition, ?length⟩
  case partition =>
    calc r = slice r 0 (r.length - 4) ++ slice r (r.length - 4) r.length := by
          rw [slice_append_slice (by omega) (by omega), slice_zero_length]
      _ = byteAt r 0 :: (slice r 1 (r.length - 4) ++ slice r (r.length - 4) r.length) := by
          rw [slice_eq_byteAt_cons (i := 0) (by omega) (by omega), List.cons_append]
      _ = _ := by
          rw [slice_last_four (by omega)]
          rfl
  case length =>
    rw [respData, slice, List.length_drop, List.length_take]
    omega

end Sys2Proof.Machine
end
